-- ==== Sys2Proof/Word.lean ====
section
/-! DEFINITION. The bit-vector types of CKSUM-CORE (00_scope.md R4, R5): bit 0 is the least significant. -/

namespace Sys2Proof

/-- A value of `ACC`, of a ROM word, of the `result` port: 32 bits (`ACC_W`, `TBL_W`, R4). -/
abbrev Word := BitVec 32

/-- A stream byte, a tag, a ROM index, an ASCII code: 8 bits (`BYTE_W`, `TAG_W`, R4). -/
abbrev Byte := BitVec 8

/-- A command word on the command port or on the internal operation word: 12 bits (`CMD_W`, R4, R45). -/
abbrev CmdWord := BitVec 12

end Sys2Proof
end

