-- ==== Sys2Proof/Config.lean ====
section
/-! DEFINITION. What an implementation fixes (the open parameter `CNT_W`, 00_scope.md R4) and the free values
(what 10_state.md R30 leaves unspecified after a reset). -/

namespace Sys2Proof

/-- The parameters of one machine that the spec leaves open (R4, 92_eei_decisions.md D7): `CNT_W`, the width of the
byte counter. `N_INST` is the length of a `Machine.System`. -/
structure Config where
  /-- `CNT_W`: "any `CNT_W >= 1` is legal" (R4). -/
  cntW : Nat
  /-- which of the `N_INST` cores this is: the model's own index of the free values, so that two cores need not agree in
  what the spec leaves unspecified (log 21). No command reads it: "there is no instance identifier register" (R107). -/
  core : Nat
  deriving DecidableEq, Repr

/-- The default configuration: `CNT_W = 64` (R4), core number 0. -/
def Config.default : Config := ⟨64, 0⟩

/-- The largest count the counter holds, `2^CNT_W - 1` (41_stream_commands.md R68). -/
def Config.maxCount (c : Config) : Nat := 2 ^ c.cntW - 1

/-- FREE VALUE (log 3): what `ACC` of the core number `c` holds after its n-th reset step, as `freeAcc c n`. 10_state.md
R30: "unspecified". -/
opaque Config.freeAcc : Nat → Nat → Word

/-- FREE VALUE (log 3): what `CNT` of the core number `c` holds after its n-th reset step, before it is cut to `CNT_W`
bits, as `freeCnt c n`. -/
opaque Config.freeCnt : Nat → Nat → Nat

end Sys2Proof
end

