-- ==== Sys2Proof/Syntax.lean ====
section
/-! DEFINITION. The commands and micro-operations of CKSUM-CORE, one constructor per row of spec/opcode_table.json
(30_encoding.md R48), the reasons a word is illegal (R50), and the assembler's source lines (R54, R55). -/

namespace Sys2Proof

/-- Where an operation word comes from: the host's command port, or the core's own sequencer (30_encoding.md R48, R51). -/
inductive Port where
  | host
  | internal
  deriving DecidableEq, Repr

/-- The opcode map of 30_encoding.md R48. Operands are held at the width of their field (R46). -/
inductive Instr where
  /-- `INIT tag`, R67 -/
  | init (tag : Byte)
  /-- `BYTE b`, R68 -/
  | byte (b : Byte)
  /-- `EOS`, R69 -/
  | eos
  /-- `REL`, R80 -/
  | rel
  /-- `FAIL SRC_UNAVAIL`, R82 -/
  | failSrcUnavail
  /-- `FAIL READ_FAIL`, R82 -/
  | failReadFail
  /-- `FAIL RELEASE_FAIL`, R82 -/
  | failReleaseFail
  /-- `FOLD`, a micro-operation of the sequencer, R74 -/
  | fold
  /-- `FIN`, a micro-operation of the sequencer, R76 -/
  | fin
  deriving DecidableEq, Repr

/-- The port an instruction is issued on (the Port column of R48). -/
def Instr.port : Instr → Port
  | .init _ => .host
  | .byte _ => .host
  | .eos => .host
  | .rel => .host
  | .failSrcUnavail => .host
  | .failReadFail => .host
  | .failReleaseFail => .host
  | .fold => .internal
  | .fin => .internal

/-- Why a 12-bit word has no instruction on a port (30_encoding.md R50). The core does not tell them apart: each of
them raises `ILLEGAL_CMD`. -/
inductive Illegal where
  /-- `op` is `0x0`, `0x6`, `0x7` or `0xA` to `0xF` -/
  | reservedOp
  /-- `arg != 0x00` where the operand must be zero -/
  | argNotZero
  /-- `FAIL` with `arg[7:2] != 0` or `arg[1:0] = 0` -/
  | badCause
  /-- `op` is `0x8` or `0x9` on the host port, "whatever its `arg`" -/
  | microOpOnHostPort
  deriving DecidableEq, Repr

/-- A source line of the assembler (R54) or one of its four pseudo-instructions (R55). Numbers are as written, so that
one out of range can be refused (`Source.wf`). -/
inductive Source where
  | init (tag : Nat)
  | byte (b : Nat)
  | eos
  | rel
  /-- the cause as a number 1, 2 or 3 (R54) -/
  | fail (cause : Nat)
  /-- `DATA b0, b1, ..., bk` -/
  | data (bs : List Nat)
  /-- `ASCII "text"`, the character codes in order -/
  | ascii (text : List Nat)
  /-- `ZEROS n` -/
  | zeros (n : Nat)
  /-- `COMPUTE tag, "text"` -/
  | compute (tag : Nat) (text : List Nat)
  deriving DecidableEq, Repr

end Sys2Proof
end

