-- ==== Sys2Proof/Machine/State.lean ====
section
/-! DEFINITION. The state of one CKSUM-CORE (10_state.md R11): its seven registers, its parameters, and what the host
drives on the coming clock edges. The table ROM is a constant, not state (R11, R23). -/

namespace Sys2Proof.Machine

/-- The 3-bit register `PHASE` (10_state.md R16), one constructor per value 0 to 7 in order. -/
inductive Phase where
  | idle
  | consuming
  | folding
  | hold
  | done
  | failed
  /-- value 6: "reserved; never written by any rule" (R16) -/
  | reserved6
  /-- value 7: "reserved; never written by any rule" (R16) -/
  | reserved7
  deriving DecidableEq, Repr

/-- The six fault causes (10_state.md R18, 60_exceptions.md R94). -/
inductive Cause where
  | srcUnavail
  | readFail
  | releaseFail
  | illegalCmd
  | protocol
  | cntOvf
  deriving DecidableEq, Repr

/-- What the host drives on one clock edge (10_state.md R27): `rst`, `cmd_valid`, `cmd[11:0]`. -/
structure HostDrive where
  rst : Bool
  cmdValid : Bool
  cmd : CmdWord
  deriving DecidableEq, Repr

/-- A cell of the legality matrix (30_encoding.md R57). -/
inductive Verdict where
  /-- "the command's own rule runs" -/
  | ok
  /-- "`P` means `Fault({PROTOCOL})`" -/
  | outOfPhase
  /-- "`-` means the command cannot be accepted in that phase because `cmd_ready = 0`" -/
  | notReady
  /-- no column of the matrix: `PHASE` is 6 or 7 (93_implementation_defined.md I7) -/
  | noColumn
  deriving DecidableEq, Repr

/-- The step a clock edge takes (00_scope.md R8). -/
inductive Issue where
  /-- `RESET`, R109 -/
  | reset
  /-- "When no step is enabled ... the state does not change" -/
  | quiet
  /-- an accepted well-formed command, or the micro-operation the sequencer issues -/
  | run (i : Instr)
  /-- an accepted word with no host encoding, R50 -/
  | illegal
  /-- a command presented in a reserved phase: no step is defined (I7) -/
  | stuck
  deriving DecidableEq, Repr

/-- Why the MODEL stops. The spec's own faults are no such stop: they are next states with `PHASE = FAILED`
(60_exceptions.md R97). -/
inductive Fault where
  /-- Raised by a step, and by every meaning, when a command is presented while `PHASE` is 6 or 7:
  93_implementation_defined.md I7, "`stuck` (no step is defined from them ...)". Safe; unreachable from reset (R17). -/
  | stuckReservedPhase
  deriving DecidableEq, Repr

/-- Why the model gives an instruction no meaning. -/
inductive Refusal where
  /-- An instruction not modelled yet, by its mnemonic. Raised by no arm of `exec`: every row has its meaning. Safe. -/
  | notModelled (mnemonic : String)
  deriving DecidableEq, Repr

/-- One CKSUM-CORE. -/
structure State where
  /-- `ACC`, the running checksum (R12) -/
  acc : Word
  /-- `CNT`, the byte counter (R13), a natural number below `2^CNT_W` (R15, log 4) -/
  cnt : Nat
  /-- `PHASE` (R16) -/
  phase : Phase
  /-- `FAULT[5:0]`, one sticky bit per cause (R18) -/
  fault : BitVec 6
  /-- `PRIMARY[2:0]`, the code of the first cause (R19) -/
  primary : BitVec 3
  /-- `REL_SEEN` (R20) -/
  relSeen : Bool
  /-- `TAG[7:0]` (R22) -/
  tag : Byte
  /-- the machine's parameters (00_scope.md R4) and its number among several cores; the model's own field, never written
  (logs 5 and 21) -/
  cfg : Config
  /-- what the host drives on the coming edges, the next one first; past its end `rst = 0` and `cmd_valid = 0`; the
  model's own field (log 6) -/
  port : List HostDrive
  /-- the index of the next free value (log 3); the model's own field -/
  freeCtr : Nat
  deriving DecidableEq, Repr

/-- The state after `RESET` (10_state.md R30, 70_reset_and_hazards.md R109), with the default `CNT_W = 64`. R30 leaves
`ACC` and `CNT` unspecified: DESIGN CHOICE 0 (logs 1 and 2). -/
def State.reset : State where
  acc := 0#32
  cnt := 0
  phase := .idle
  fault := 0#6
  primary := 0#3
  relSeen := false
  tag := 0#8
  cfg := Config.default
  port := []
  freeCtr := 0

end Sys2Proof.Machine
end

