-- ==== Sys2Proof/Machine/Flags.lean ====
section
/-! DEFINITION. There is no flags register (10_state.md R27). Two 1-bit outputs that are functions of `PHASE` play the part
of flags. -/

namespace Sys2Proof.Machine

/-- `cmd_ready = (PHASE != FOLDING)` (44_result_output.md R90). -/
def cmdReady (s : State) : Bool := decide (s.phase ≠ .folding)

/-- `result_valid = (PHASE = DONE)` (R86). -/
def resultValid (s : State) : Bool := decide (s.phase = .done)

end Sys2Proof.Machine
end

