-- ==== Sys2Proof/Machine/Update.lean ====
section
/-! DEFINITION. The update datapath (40_update_datapath.md): the table form `upd`, which the machine uses, and the
bit-serial feedback shift register it equals (R64). -/

namespace Sys2Proof.Machine

/-- The ROM index, `a[31:24] ^ b`, 8 bits wide, no sign and no mask (R61, R62). -/
def updIndex (a : Word) (b : Byte) : Byte := a.extractLsb' 24 8 ^^^ b

/-- `UPD(a, b)`: `{a[23:0], 8'h00} ^ ROM[a[31:24] ^ b]` (R60). -/
def upd (a : Word) (b : Byte) : Word := (a.extractLsb' 0 24 ++ 0#8) ^^^ rom (updIndex a b)

/-- One step of the feedback shift register (R64): the feedback is the bit leaving position 31 exclusive-OR the input bit. -/
def lfsrBit (r : Word) (d : Bool) : Word :=
  if Bool.xor r.msb d then (r <<< 1) ^^^ poly else r <<< 1

/-- Eight steps, the bits of `b` most significant first (R64). -/
def updSerial (a : Word) (b : Byte) : Word :=
  [7, 6, 5, 4, 3, 2, 1, 0].foldl (fun r k => lfsrBit r (b.getLsbD k)) a

end Sys2Proof.Machine
end

