-- ==== Sys2Proof/Machine/Operands.lean ====
section
/-! DEFINITION. The operand forms: the counter's value as the datapath reads it (42_fold_finalize.md R74), its increment
and its guard (41_stream_commands.md R68), and the codes of phases and causes (10_state.md R16, R18, R19). -/

namespace Sys2Proof.Machine

/-- `CNT[7:0]`, the input byte of `FOLD`; for `CNT_W < 8` this is `zext_8(CNT)` (R74). -/
def foldByte (s : State) : Byte := BitVec.ofNat 8 s.cnt

/-- `CNT >> 8`, logical: zeros enter at the top (R74). -/
def shiftedCount (s : State) : Nat := s.cnt >>> 8

/-- `CNT = 2^CNT_W - 1`: no count is left to represent one byte more (R68). The test is `>=`, so that a state outside the
invariant `CNT < 2^CNT_W` counts as full (log 4). -/
def counterFull (s : State) : Bool := decide (s.cfg.maxCount ≤ s.cnt)

/-- The value of `PHASE` (R16). -/
def Phase.code : Phase → BitVec 3
  | .idle => 0#3
  | .consuming => 1#3
  | .folding => 2#3
  | .hold => 3#3
  | .done => 4#3
  | .failed => 5#3
  | .reserved6 => 6#3
  | .reserved7 => 7#3

/-- `PHASE` is 6 or 7 (R16). -/
def Phase.reserved : Phase → Bool
  | .reserved6 => true
  | .reserved7 => true
  | .idle => false
  | .consuming => false
  | .folding => false
  | .hold => false
  | .done => false
  | .failed => false

/-- The code of a cause, the value `PRIMARY` takes (60_exceptions.md R94). -/
def Cause.code : Cause → Nat
  | .srcUnavail => 1
  | .readFail => 2
  | .releaseFail => 3
  | .illegalCmd => 4
  | .protocol => 5
  | .cntOvf => 6

/-- The `FAULT` bit of a cause: bit number code minus one (10_state.md R18, R19). -/
def Cause.bit (c : Cause) : BitVec 6 := 1#6 <<< (c.code - 1)

end Sys2Proof.Machine
end

