-- ==== Sys2Proof/Machine/Ops.lean ====
section
/-! DEFINITION. The operations the meanings share: the fault entry (60_exceptions.md R97), the start of a computation, which
is also the return from a fault (R101), the reset step (70_reset_and_hazards.md R109), the legality matrix
(30_encoding.md R57) and what becomes of a command under each of its cells. -/

namespace Sys2Proof.Machine

/-- OR over the causes of their `FAULT` bits (R97). -/
def causeBits (c : Cause) (cs : List Cause) : BitVec 6 := cs.foldl (fun m d => m ||| d.bit) c.bit

/-- The least code among the causes (R97). -/
def minCode (c : Cause) (cs : List Cause) : Nat := cs.foldl (fun m d => min m d.code) c.code

/-- `Fault(S)` for the non-empty set `S` of the causes `c` and `cs`: "the whole of what a fault does" (R97). -/
def raiseFault (c : Cause) (cs : List Cause) (s : State) : State :=
  { s with
    fault := s.fault ||| causeBits c cs
    primary := if s.primary = 0#3 then BitVec.ofNat 3 (minCode c cs) else s.primary
    phase := .failed }

/-- `INIT`'s writes (41_stream_commands.md R67). From `FAILED` this is the return from a fault (60_exceptions.md R101). -/
def startComputation (tag : Byte) (s : State) : State :=
  { s with
    acc := 0#32
    cnt := 0
    fault := 0#6
    primary := 0#3
    relSeen := false
    tag := tag
    phase := .consuming }

/-- The step `RESET` (70_reset_and_hazards.md R109). "ACC, CNT: ... their values after reset are unspecified": free
values of this core (log 21) and this reset, `CNT`'s cut to `CNT_W` bits (log 3). -/
def resetStep (s : State) : State :=
  { s with
    phase := .idle
    fault := 0#6
    primary := 0#3
    relSeen := false
    tag := 0#8
    acc := Config.freeAcc s.cfg.core s.freeCtr
    cnt := Config.freeCnt s.cfg.core s.freeCtr % 2 ^ s.cfg.cntW
    freeCtr := s.freeCtr + 1 }

/-- Past a clock edge, what the host drove on it is gone. -/
def State.tick (s : State) : State := { s with port := s.port.tail }

/-- An edge on which the host drives nothing: `rst = 0`, `cmd_valid = 0`. `cmd` is then ignored (I19). -/
def HostDrive.none : HostDrive := ⟨false, false, 0#12⟩

/-- An edge on which the host presents the command word `w` (30_encoding.md R56). -/
def HostDrive.present (w : CmdWord) : HostDrive := ⟨false, true, w⟩

/-- What the host drives on the coming edge. -/
def State.drive (s : State) : HostDrive := s.port.headD HostDrive.none

/-- The row `INIT` of the legality matrix (R57). -/
def legalInit : Phase → Verdict
  | .idle => .ok
  | .consuming => .outOfPhase
  | .folding => .notReady
  | .hold => .outOfPhase
  | .done => .ok
  | .failed => .ok
  | .reserved6 => .noColumn
  | .reserved7 => .noColumn

/-- The rows `BYTE` and `EOS` of the legality matrix (R57). -/
def legalStream : Phase → Verdict
  | .idle => .outOfPhase
  | .consuming => .ok
  | .folding => .notReady
  | .hold => .outOfPhase
  | .done => .outOfPhase
  | .failed => .outOfPhase
  | .reserved6 => .noColumn
  | .reserved7 => .noColumn

/-- The row `REL` of the legality matrix (R57); its argument `relSeen` is `REL_SEEN`. -/
def legalRel (relSeen : Bool) : Phase → Verdict
  | .idle => .outOfPhase
  | .consuming => .outOfPhase
  | .folding => .notReady
  | .hold => .ok
  | .done => .outOfPhase
  | .failed => if relSeen then .outOfPhase else .ok
  | .reserved6 => .noColumn
  | .reserved7 => .noColumn

/-- The row `FAIL c` of the legality matrix (R57). -/
def legalFail : Phase → Verdict
  | .idle => .ok
  | .consuming => .ok
  | .folding => .notReady
  | .hold => .ok
  | .done => .ok
  | .failed => .ok
  | .reserved6 => .noColumn
  | .reserved7 => .noColumn

/-- A command under its cell of the legality matrix: its own effect, `Fault({PROTOCOL})` (R58), nothing at all where it
cannot be accepted (I10, log 9), or no step (I7, log 8). -/
def underVerdict (v : Verdict) (effect : State) (s : State) : Host.Outcome State Fault Refusal :=
  match v with
  | .ok => .next effect
  | .outOfPhase => .next (raiseFault .protocol [] s)
  | .notReady => .next s
  | .noColumn => .fault .stuckReservedPhase

/-- A micro-operation under its enabling condition (00_scope.md R8): where it is not enabled it does not happen and the
state does not change (log 10). -/
def whenEnabled (enabled : Bool) (effect : State) (s : State) : Host.Outcome State Fault Refusal :=
  if s.phase.reserved then .fault .stuckReservedPhase
  else if enabled then .next effect
  else .next s

/-- `FAIL cause` for a cause other than `RELEASE_FAIL`: the fault entry with that cause (43_completion_failure.md R82). -/
def failSource (c : Cause) (s : State) : State := raiseFault c [] s

/-- `FAIL RELEASE_FAIL` (R82): `REL_SEEN <- 1` together with the fault entry, and `PROTOCOL` added to the set when a release
was already reported. -/
def failRelease (s : State) : State :=
  raiseFault .releaseFail (if s.relSeen then [.protocol] else []) { s with relSeen := true }

end Sys2Proof.Machine
end

