-- ==== Sys2Proof/Machine/Completion.lean ====
section
/-! DEFINITION. The completion and failure commands `REL` and `FAIL` (43_completion_failure.md). -/

namespace Sys2Proof.Machine

/-- The rule of an accepted, in-phase `REL`: from `HOLD` to `DONE`, in `FAILED` only `REL_SEEN` (R80). -/
def reportRelease (s : State) : State :=
  if s.phase = .hold then { s with relSeen := true, phase := .done }
  else { s with relSeen := true }

/-- `REL` (R80). -/
def execRel (s : State) : Host.Outcome State Fault Refusal :=
  underVerdict (legalRel s.relSeen s.phase) (reportRelease s) s

/-- `FAIL SRC_UNAVAIL` (R82). -/
def execFailSrcUnavail (s : State) : Host.Outcome State Fault Refusal :=
  underVerdict (legalFail s.phase) (failSource .srcUnavail s) s

/-- `FAIL READ_FAIL` (R82). -/
def execFailReadFail (s : State) : Host.Outcome State Fault Refusal :=
  underVerdict (legalFail s.phase) (failSource .readFail s) s

/-- `FAIL RELEASE_FAIL` (R82). -/
def execFailReleaseFail (s : State) : Host.Outcome State Fault Refusal :=
  underVerdict (legalFail s.phase) (failRelease s) s

end Sys2Proof.Machine
end

