-- ==== Sys2Proof/Machine/Fold.lean ====
section
/-! DEFINITION. The micro-operations of the sequencer: the length fold `FOLD` and the finalization `FIN`
(42_fold_finalize.md). -/

namespace Sys2Proof.Machine

/-- `FOLD` is enabled when `PHASE = FOLDING` and `CNT != 0` (R74). -/
def foldEnabled (s : State) : Bool := decide (s.phase = .folding) && decide (s.cnt ≠ 0)

/-- `FIN` is enabled when `PHASE = FOLDING` and `CNT = 0` (R76). -/
def finEnabled (s : State) : Bool := decide (s.phase = .folding) && decide (s.cnt = 0)

/-- `FOLD` (R74): both writes use the value of `CNT` before the step. -/
def execFold (s : State) : Host.Outcome State Fault Refusal :=
  whenEnabled (foldEnabled s) { s with acc := upd s.acc (foldByte s), cnt := shiftedCount s } s

/-- `FIN` (R76): all 32 bits of `ACC` inverted, and the phase moves to `HOLD`. -/
def execFin (s : State) : Host.Outcome State Fault Refusal :=
  whenEnabled (finEnabled s) { s with acc := ~~~s.acc, phase := .hold } s

end Sys2Proof.Machine
end

