-- ==== Sys2Proof/Machine/Stream.lean ====
section
/-! DEFINITION. The stream commands `INIT`, `BYTE`, `EOS` (41_stream_commands.md). -/

namespace Sys2Proof.Machine

/-- `INIT tag` (R67). -/
def execInit (tag : Byte) (s : State) : Host.Outcome State Fault Refusal :=
  underVerdict (legalInit s.phase) (startComputation tag s) s

/-- The rule of an accepted, in-phase `BYTE b`: `CNT_OVF` when the counter is full, with `ACC` and `CNT` kept, else one
update and one count together (R68). -/
def accumulate (b : Byte) (s : State) : State :=
  if counterFull s then raiseFault .cntOvf [] s
  else { s with acc := upd s.acc b, cnt := s.cnt + 1 }

/-- `BYTE b` (R68). -/
def execByte (b : Byte) (s : State) : Host.Outcome State Fault Refusal :=
  underVerdict (legalStream s.phase) (accumulate b s) s

/-- `EOS` (R69): only the phase moves. -/
def execEos (s : State) : Host.Outcome State Fault Refusal :=
  underVerdict (legalStream s.phase) { s with phase := .folding } s

end Sys2Proof.Machine
end

