-- ==== Sys2Proof/Machine/Dispatch.lean ====
section
/-! DEFINITION. One arm per row of spec/opcode_table.json (30_encoding.md R48). -/

namespace Sys2Proof.Machine

def exec (i : Instr) (s : State) : Host.Outcome State Fault Refusal :=
  match i with
  | .init tag => Sys2Proof.Machine.execInit tag s
  | .byte b => Sys2Proof.Machine.execByte b s
  | .eos => Sys2Proof.Machine.execEos s
  | .rel => Sys2Proof.Machine.execRel s
  | .failSrcUnavail => Sys2Proof.Machine.execFailSrcUnavail s
  | .failReadFail => Sys2Proof.Machine.execFailReadFail s
  | .failReleaseFail => Sys2Proof.Machine.execFailReleaseFail s
  | .fold => Sys2Proof.Machine.execFold s
  | .fin => Sys2Proof.Machine.execFin s

end Sys2Proof.Machine
end

