-- ==== Sys2Proof/WellFormed.lean ====
section
/-! DEFINITION. What is well formed: an instruction on a port, a configuration, a source line of the assembler. Every
operand of `Instr` has the width of its field, and every value of that width is legal (30_encoding.md R46), so the
check on an instruction is the port it may be issued on. -/

namespace Sys2Proof

/-- "They never cross the command port" (30_encoding.md R51): a micro-operation is refused on the host port, a command
on the internal word. -/
def Instr.wf (p : Port) (i : Instr) : Bool := decide (i.port = p)

/-- "any `CNT_W >= 1` is legal" (00_scope.md R4). -/
def Config.wf (c : Config) : Bool := decide (1 ≤ c.cntW)

/-- The operand ranges of R54 and R55: tags and bytes are `0..255`, a cause is 1, 2 or 3, a text is 7-bit ASCII and
`DATA` has at least one byte. -/
def Source.wf : Source → Bool
  | .init tag => decide (tag < 256)
  | .byte b => decide (b < 256)
  | .eos => true
  | .rel => true
  | .fail cause => decide (1 ≤ cause) && decide (cause ≤ 3)
  | .data bs => !bs.isEmpty && bs.all (· < 256)
  | .ascii text => text.all (· < 128)
  | .zeros _ => true
  | .compute tag text => decide (tag < 256) && text.all (· < 128)

end Sys2Proof
end

