-- ==== Sys2Proof/Decode.lean ====
section
/-! DEFINITION. The decoder of command words, total on all 4096 words (30_encoding.md R45 to R52), and the encoder. -/

namespace Sys2Proof

/-- `op = cmd[11:8]` (R45). -/
def opField (w : CmdWord) : BitVec 4 := w.extractLsb' 8 4

/-- `arg = cmd[7:0]` (R45). -/
def argField (w : CmdWord) : Byte := w.extractLsb' 0 8

/-- An operation whose operand field must be zero (`EOS`, `REL`, `FOLD`, `FIN`, R46). -/
def noOperand (arg : Byte) (i : Instr) : Except Illegal Instr :=
  if arg = 0#8 then .ok i else .error .argNotZero

/-- `FAIL`: `cause` in `arg[1:0]`, legal values 1, 2, 3; `arg[7:2]` must be 0 (R46, R48). -/
def decodeCause (arg : Byte) : Except Illegal Instr :=
  if arg = 1#8 then .ok .failSrcUnavail
  else if arg = 2#8 then .ok .failReadFail
  else if arg = 3#8 then .ok .failReleaseFail
  else .error .badCause

/-- The whole opcode map of R48, host and internal rows alike: "one uniform operation word" (R51). -/
def decodeOp (w : CmdWord) : Except Illegal Instr :=
  if opField w = 0x1#4 then .ok (.init (argField w))
  else if opField w = 0x2#4 then .ok (.byte (argField w))
  else if opField w = 0x3#4 then noOperand (argField w) .eos
  else if opField w = 0x4#4 then noOperand (argField w) .rel
  else if opField w = 0x5#4 then decodeCause (argField w)
  else if opField w = 0x8#4 then noOperand (argField w) .fold
  else if opField w = 0x9#4 then noOperand (argField w) .fin
  else .error .reservedOp

/-- `op` is that of a micro-operation, `0x8` or `0x9` (R50). -/
def isMicroOp (w : CmdWord) : Bool := decide (opField w = 0x8#4) || decide (opField w = 0x9#4)

/-- `Decode(w)` of R47, R48 on the host port: a word whose `op` is a micro-operation's is illegal "whatever its
`arg`" (R50). It looks at the 12 bits alone. -/
def decode (w : CmdWord) : Except Illegal Instr :=
  if isMicroOp w then .error .microOpOnHostPort else decodeOp w

/-- One row of the opcode map as R48 prints it. -/
structure OpcodeRow where
  pattern : CmdWord
  mask : CmdWord
  port : Port
  deriving DecidableEq, Repr

/-- The rows of R48 that have a match and a mask, in its order. -/
def opcodeMap : List OpcodeRow :=
  [⟨0x100#12, 0xF00#12, .host⟩, ⟨0x200#12, 0xF00#12, .host⟩, ⟨0x300#12, 0xFFF#12, .host⟩,
   ⟨0x400#12, 0xFFF#12, .host⟩, ⟨0x501#12, 0xFFF#12, .host⟩, ⟨0x502#12, 0xFFF#12, .host⟩,
   ⟨0x503#12, 0xFFF#12, .host⟩, ⟨0x800#12, 0xFFF#12, .internal⟩, ⟨0x900#12, 0xFFF#12, .internal⟩]

/-- "the row whose `match`/`mask` fits (`w & mask = match`)" (R48). -/
def OpcodeRow.fits (r : OpcodeRow) (w : CmdWord) : Bool := decide (w &&& r.mask = r.pattern)

/-- The word of an instruction (the Word column of R48). -/
def encode : Instr → CmdWord
  | .init tag => 0x1#4 ++ tag
  | .byte b => 0x2#4 ++ b
  | .eos => 0x300#12
  | .rel => 0x400#12
  | .failSrcUnavail => 0x501#12
  | .failReadFail => 0x502#12
  | .failReleaseFail => 0x503#12
  | .fold => 0x800#12
  | .fin => 0x900#12

/-- The 12-bit word that is the number `w` cut to `nbits` bits, where there is one: a command is 12 bits long (R45), so
the bits a wider container has above bit 11 must be zero (log 20). -/
def tableWord (nbits w : Nat) : Option CmdWord :=
  if w % 2 ^ nbits < 4096 then some (BitVec.ofNat 12 (w % 2 ^ nbits)) else none

/-- The instruction of an opcode-table word, host and internal rows alike. -/
def decodeTableWord (nbits w : Nat) : Option Instr :=
  match tableWord nbits w with
  | none => none
  | some v =>
    match decodeOp v with
    | .ok i => some i
    | .error _ => none

end Sys2Proof
end

