-- ==== Sys2Proof/Machine/Fetch.lean ====
section
/-! DEFINITION. Where the next operation comes from: the reset input, the core's sequencer in `FOLDING`, the command port
otherwise (00_scope.md R8, 30_encoding.md R47, R51, R56), and how a command word is put there from outside. -/

namespace Sys2Proof.Machine

/-- The operation word the sequencer issues in `FOLDING` (30_encoding.md R51, 42_fold_finalize.md R73): `FOLD` while
`CNT != 0`, then `FIN`. -/
def sequencerWord (s : State) : CmdWord := if s.cnt = 0 then 0x900#12 else 0x800#12

/-- The step the sequencer takes in `FOLDING`. -/
def sequencerIssue (s : State) : Issue :=
  match decodeOp (sequencerWord s) with
  | .ok i => .run i
  | .error _ => .stuck

/-- `ACCEPT(w)` up to the choice of its rule (30_encoding.md R47): an illegal word first, then the command, whose meaning
checks its phase. -/
def acceptIssue (w : CmdWord) : Issue :=
  match decode w with
  | .ok i => .run i
  | .error _ => .illegal

/-- The step of the coming edge (00_scope.md R8). `RESET` takes priority over every other; in `FOLDING` nothing is accepted;
elsewhere a presented word is. In a reserved phase a presented word finds no step (I7). -/
def nextIssue (s : State) : Issue :=
  if s.drive.rst then .reset
  else if cmdReady s then
    if s.drive.cmdValid then
      if s.phase.reserved then .stuck else acceptIssue s.drive.cmd
    else .quiet
  else sequencerIssue s

/-- A phase in which the command port accepts: `p` itself where it does, else `HOLD`, the phase in which the port accepts
again after a fold (log 7). -/
def acceptingPhase : Phase → Phase
  | .folding => .hold
  | .reserved6 => .hold
  | .reserved7 => .hold
  | .idle => .idle
  | .consuming => .consuming
  | .hold => .hold
  | .done => .done
  | .failed => .failed

/-- `s` with the operation word `w` where the next step takes it (log 7): the word of an internal micro-operation comes
from the sequencer, so the phase is `FOLDING` with a count that makes the sequencer issue it, and the host drives
nothing; any other word is presented on the command port, in a phase in which the port accepts. -/
def State.withOpWord (s : State) (w : CmdWord) : State :=
  if w = 0x800#12 then
    { s with phase := .folding, cnt := if s.cnt = 0 then 1 else s.cnt, port := HostDrive.none :: s.port }
  else if w = 0x900#12 then
    { s with phase := .folding, cnt := 0, port := HostDrive.none :: s.port }
  else
    { s with phase := acceptingPhase s.phase, port := HostDrive.present w :: s.port }

end Sys2Proof.Machine
end

