-- ==== Sys2Proof/Machine/Step.lean ====
section
/-! DEFINITION. One rising edge of `clk` (00_scope.md R8, 70_reset_and_hazards.md R118). -/

namespace Sys2Proof.Machine

/-- One clock edge: what the host drove is consumed, and the one step that is enabled, if any, happens (R8). -/
def step (s : State) : Host.Outcome State Fault Refusal :=
  match nextIssue s with
  | .reset => .next (resetStep s.tick)
  | .quiet => .next s.tick
  | .run i => exec i s.tick
  | .illegal => .next (raiseFault .illegalCmd [] s.tick)
  | .stuck => .fault .stuckReservedPhase

/-- `s` with the opcode-table word `w` where the next step takes it. A number that is no 12-bit word has no place on the
port and leaves `s` as it is (log 20). -/
def State.withFetchWord (s : State) (nbits w : Nat) : State :=
  match tableWord nbits w with
  | none => s
  | some v => s.withOpWord v

end Sys2Proof.Machine
end

