-- ==== Sys2Proof/Machine/Asm.lean ====
section
/-! DEFINITION. The assembler's notation (30_encoding.md R54) and its pseudo-instructions (R55): a source line's text, its
source term, and the command words it stands for. Text is a list of characters. What R54 leaves open is in log 19. -/

namespace Sys2Proof.Machine

/-- A token of a source line. -/
inductive Token where
  /-- a mnemonic, a number or a cause name -/
  | word (cs : List Char)
  /-- the characters between two double quotes -/
  | text (cs : List Char)
  | comma
  deriving DecidableEq, Repr

/-- The word read so far (its characters last first) as a token, where there is one. -/
def endWord (cur : List Char) : List Token := if cur.isEmpty then [] else [.word cur.reverse]

/-- The tokens of the rest of a line. `inText` says that a double quote is open; `cur` is what has been read of the
current token, last character first. `#` outside a text begins a comment to the end of the line (R54). An open text at
the end of the line is no line. -/
def lexFrom (inText : Bool) (cur : List Char) : List Char → Option (List Token)
  | [] => if inText then none else some (endWord cur)
  | c :: cs =>
    if inText then
      if c = '"' then (lexFrom false [] cs).map (.text cur.reverse :: ·) else lexFrom true (c :: cur) cs
    else if c = '#' then some (endWord cur)
    else if c = '"' then (lexFrom true [] cs).map (endWord cur ++ ·)
    else if c = ',' then (lexFrom false [] cs).map (endWord cur ++ .comma :: ·)
    else if c = ' ' ∨ c = '\t' then (lexFrom false [] cs).map (endWord cur ++ ·)
    else lexFrom false (c :: cur) cs

/-- The value of a digit, `0` to `9` and, above nine, `a` to `f` or `A` to `F`, where it is below the base. -/
def digitValue (base : Nat) (c : Char) : Option Nat :=
  let v :=
    if '0'.toNat ≤ c.toNat ∧ c.toNat ≤ '9'.toNat then c.toNat - '0'.toNat
    else if 'a'.toNat ≤ c.toNat ∧ c.toNat ≤ 'f'.toNat then c.toNat - 'a'.toNat + 10
    else if 'A'.toNat ≤ c.toNat ∧ c.toNat ≤ 'F'.toNat then c.toNat - 'A'.toNat + 10
    else base
  if v < base then some v else none

/-- The value of a row of digits that follows a number already read. -/
def digitsFrom (base value : Nat) : List Char → Option Nat
  | [] => some value
  | c :: cs =>
    match digitValue base c with
    | none => none
    | some d => digitsFrom base (base * value + d) cs

/-- "numbers are decimal or `0x` hexadecimal" (R54). -/
def numberOf (cs : List Char) : Option Nat :=
  if cs.take 2 = ['0', 'x'] then
    if cs.length = 2 then none else digitsFrom 16 0 (cs.drop 2)
  else if cs.isEmpty then none
  else digitsFrom 10 0 cs

/-- The cause of a `FAIL` line: a name, "also accepted: 1 | 2 | 3" (R54). -/
def causeOf (cs : List Char) : Option Nat :=
  if cs = ['S', 'R', 'C', '_', 'U', 'N', 'A', 'V', 'A', 'I', 'L'] then some 1
  else if cs = ['R', 'E', 'A', 'D', '_', 'F', 'A', 'I', 'L'] then some 2
  else if cs = ['R', 'E', 'L', 'E', 'A', 'S', 'E', '_', 'F', 'A', 'I', 'L'] then some 3
  else numberOf cs

/-- The operands of `DATA`: one number, or several with a comma between each two (R55). -/
def dataOperands : List Token → Option (List Nat)
  | [.word cs] => (numberOf cs).map ([·])
  | .word cs :: .comma :: ts =>
    match numberOf cs with
    | none => none
    | some b => (dataOperands ts).map (b :: ·)
  | _ => none

/-- The character codes of a text. -/
def codesOf (cs : List Char) : List Nat := cs.map Char.toNat

/-- The source term of a mnemonic and its operands (R54, R55). -/
def sourceOf (mnemonic : List Char) (operands : List Token) : Option Source :=
  if mnemonic = ['I', 'N', 'I', 'T'] then
    match operands with
    | [] => some (.init 0)
    | [.word cs] => (numberOf cs).map .init
    | _ => none
  else if mnemonic = ['B', 'Y', 'T', 'E'] then
    match operands with
    | [.word cs] => (numberOf cs).map .byte
    | _ => none
  else if mnemonic = ['E', 'O', 'S'] then
    match operands with
    | [] => some .eos
    | _ => none
  else if mnemonic = ['R', 'E', 'L'] then
    match operands with
    | [] => some .rel
    | _ => none
  else if mnemonic = ['F', 'A', 'I', 'L'] then
    match operands with
    | [.word cs] => (causeOf cs).map .fail
    | _ => none
  else if mnemonic = ['D', 'A', 'T', 'A'] then (dataOperands operands).map .data
  else if mnemonic = ['A', 'S', 'C', 'I', 'I'] then
    match operands with
    | [.text cs] => some (.ascii (codesOf cs))
    | _ => none
  else if mnemonic = ['Z', 'E', 'R', 'O', 'S'] then
    match operands with
    | [.word cs] => (numberOf cs).map .zeros
    | _ => none
  else if mnemonic = ['C', 'O', 'M', 'P', 'U', 'T', 'E'] then
    match operands with
    | [.word cs, .comma, .text txt] => (numberOf cs).map (.compute · (codesOf txt))
    | _ => none
  else none

/-- A source line: at most one command (R54). `none` for a line that is not of the notation. -/
def parseLine (line : List Char) : Option (List Source) :=
  match lexFrom false [] line with
  | none => none
  | some [] => some []
  | some (.word cs :: operands) => (sourceOf cs operands).map ([·])
  | some _ => none

/-- One `BYTE` per number, in order (R55). -/
def bytesOf (bs : List Nat) : List Instr := bs.map (fun b => .byte (BitVec.ofNat 8 b))

/-- The `FAIL` command of a cause 1, 2 or 3 (R54). -/
def failOf (cause : Nat) : Instr :=
  if cause = 1 then .failSrcUnavail else if cause = 2 then .failReadFail else .failReleaseFail

/-- The commands of a well-formed source line; a pseudo-instruction is its expansion (R55). -/
def expand : Source → List Instr
  | .init tag => [.init (BitVec.ofNat 8 tag)]
  | .byte b => bytesOf [b]
  | .eos => [.eos]
  | .rel => [.rel]
  | .fail cause => [failOf cause]
  | .data bs => bytesOf bs
  | .ascii text => bytesOf text
  | .zeros n => bytesOf (List.replicate n 0)
  | .compute tag text => .init (BitVec.ofNat 8 tag) :: bytesOf text ++ [.eos, .rel]

/-- The command words of a list of source lines; `none` where an operand is out of range. -/
def assemble (lines : List Source) : Option (List CmdWord) :=
  if lines.all Source.wf then some ((lines.flatMap expand).map encode) else none

end Sys2Proof.Machine
end

