-- ==== Sys2Proof/Machine/Instances.lean ====
section
/-! DEFINITION. Several instances (60_exceptions.md R107, 20_memory.md R42): `N_INST` cores, each with its own registers,
parameters and ports, over the one constant ROM. Each is an agent of its own (00_scope.md R7); a system moves by a step of
one of them, and the steps of different ones commute (log 13). -/

namespace Sys2Proof.Machine

/-- `N_INST` cores, `N_INST` the length of the list. There is no shared mutable state. -/
abbrev System := List State

/-- The core number `c` after reset. -/
def State.resetCore (c : Nat) : State := { State.reset with cfg := { Config.default with core := c } }

/-- "all leave reset in `IDLE`" (R107). The cores have different numbers, so what a later `RESET` leaves in `ACC` and `CNT`
of one says nothing of another (log 21). -/
def System.reset (nInst : Nat) : System := (List.range nInst).map State.resetCore

/-- A clock edge of the instance number `k`. The other instances do not see it; where there is no such instance nothing
happens. -/
def System.stepAt (k : Nat) (sys : System) : Host.Outcome System Fault Refusal :=
  match sys[k]? with
  | none => .next sys
  | some s =>
    match step s with
    | .next t => .next (sys.set k t)
    | .fault r => .fault r
    | .refused r => .refused r

end Sys2Proof.Machine
end

