-- ==== Sys2Proof/Machine/Digest.lean ====
section
/-! DEFINITION. The whole computation as a function of the byte sequence (41_stream_commands.md R71, 42_fold_finalize.md
R75, R77). No meaning calls these: they are what the machine is claimed to compute. -/

namespace Sys2Proof.Machine

/-- `Acc(empty) = 0`, `Acc(s ++ [b]) = UPD(Acc(s), b)` (R71). -/
def accOf (bs : List Byte) : Word := bs.foldl upd 0#32

/-- `L(n)` with a bound on the number of bytes. -/
def foldStepsFrom : Nat → Nat → Nat
  | 0, _ => 0
  | k + 1, n => if n = 0 then 0 else 1 + foldStepsFrom k (n >>> 8)

/-- `L(0) = 0`, `L(n) = 1 + L(n >> 8)` (R75). The bound `n` is never met: a shift makes `n` smaller. -/
def foldSteps (n : Nat) : Nat := foldStepsFrom n n

/-- `FoldLen(a, m)` with a bound on the number of bytes. -/
def foldLenFrom : Nat → Word → Nat → Word
  | 0, a, _ => a
  | k + 1, a, m => if m = 0 then a else foldLenFrom k (upd a (BitVec.ofNat 8 m)) (m >>> 8)

/-- `FoldLen(a, 0) = a`, `FoldLen(a, m) = FoldLen(UPD(a, m[7:0]), m >> 8)` (R77). -/
def foldLen (a : Word) (m : Nat) : Word := foldLenFrom m a m

/-- `Cksum(s) = ~ FoldLen(Acc(s), n)`, `n` the length of `s` (R77). -/
def cksum (bs : List Byte) : Word := ~~~ foldLen (accOf bs) bs.length

end Sys2Proof.Machine
end

