-- ==== Sys2Proof/Machine/Outputs.lean ====
section
/-! DEFINITION. The output ports (44_result_output.md): functions of the registers, none of them state. -/

namespace Sys2Proof.Machine

/-- `result[31:0]` (R85): `ACC` in `DONE`, zero otherwise. -/
def resultPort (s : State) : Word := if resultValid s then s.acc else 0#32

/-- The digest as R85 and I8 ask a model to give it: no value when `result_valid = 0`, so that the port's zero is never
taken for a digest (log 16). -/
def digest? (s : State) : Option Word := if resultValid s then some s.acc else none

/-- The ASCII byte of a decimal digit, `0x30 + v` (R87, G3). -/
def digitByte (v : Nat) : Byte := 0x30#8 + BitVec.ofNat 8 v

/-- `DecStr` (R87), the recursion bounded by a number of digits. -/
def decDigits : Nat → Nat → List Byte
  | 0, _ => []
  | n + 1, v => if v < 10 then [digitByte v] else decDigits n (v / 10) ++ [digitByte (v % 10)]

/-- `DecStr(v)` (R87). A 32-bit unsigned number has at most ten digits. -/
def decStr (v : Word) : List Byte := decDigits 10 v.toNat

/-- `dec_len[3:0]` (R88). -/
def decLenPort (s : State) : BitVec 4 :=
  if resultValid s then BitVec.ofNat 4 (decStr s.acc).length else 0#4

/-- Ten bytes of a text on an 80-bit port, its first byte at the top and zero bytes after its end (R88). -/
def packText (bs : List Byte) : BitVec 80 :=
  ((bs ++ List.replicate (10 - bs.length) 0#8).take 10).foldl (fun m b => (m <<< 8) ||| b.setWidth 80) 0#80

/-- `dec_str[79:0]` (R88). -/
def decStrPort (s : State) : BitVec 80 := if resultValid s then packText (decStr s.acc) else 0#80

/-- `status[20:0] = {TAG[7:0], REL_SEEN, PRIMARY[2:0], FAULT[5:0], PHASE[2:0]}` (R89). -/
def status (s : State) : BitVec 21 :=
  s.tag ++ BitVec.ofBool s.relSeen ++ s.primary ++ s.fault ++ s.phase.code

end Sys2Proof.Machine
end

