-- ==== Sys2Proof/Safety.lean ====
section
/-! DEFINITION. What claims call safe: the state invariants (10_state.md R21), a run and its end
(70_reset_and_hazards.md R119), and what a faithful host drives for one computation (R120, R122). -/

namespace Sys2Proof.Machine

/-- The state invariants (a) to (d) and (f) of R21, and the width of the counter (R13). Clause (e) is about a run, not
about a state. -/
structure State.Inv (s : State) : Prop where
  /-- (a) "`PHASE` is never 6 or 7." -/
  phaseLegal : s.phase.reserved = false
  /-- (b) `FAULT != 0` if and only if `PRIMARY != 0` -/
  faultIffPrimary : s.fault ≠ 0#6 ↔ s.primary ≠ 0#3
  /-- (b) `PRIMARY != 0` if and only if `PHASE = FAILED` -/
  primaryIffFailed : s.primary ≠ 0#3 ↔ s.phase = .failed
  /-- (c) `PRIMARY != 0` implies bit `PRIMARY - 1` of `FAULT` is 1 -/
  primaryRecorded : s.primary ≠ 0#3 → s.fault.getLsbD (s.primary.toNat - 1) = true
  /-- (d) -/
  holdUnreleased : s.phase = .hold → s.relSeen = false
  /-- (d) -/
  doneReleased : s.phase = .done → s.relSeen = true
  /-- (d) -/
  earlyUnreleased : s.phase = .idle ∨ s.phase = .consuming ∨ s.phase = .folding → s.relSeen = false
  /-- (f) -/
  countFolded : s.phase = .hold ∨ s.phase = .done → s.cnt = 0
  /-- `CNT` is a `CNT_W`-bit register (R13) -/
  countFits : s.cnt < 2 ^ s.cfg.cntW

/-- A phase in which `INIT` starts a computation (R57, premise P3 of R122). -/
def Phase.startable : Phase → Bool
  | .idle => true
  | .done => true
  | .failed => true
  | .consuming => false
  | .folding => false
  | .hold => false
  | .reserved6 => false
  | .reserved7 => false

/-! ### The end of a run (R119, log 22)

Which source a command is for is the host's to say: a `FAIL` in `DONE` may be this source's late failure or the next one's
failure to open. So what follows takes the host's word for it: `later` is what it drives for the sources after this one. -/

/-- The host drives neither a reset nor a command on this edge. -/
def HostDrive.silent (d : HostDrive) : Bool := !d.rst && !d.cmdValid

/-- A command whose acceptance can begin a run: `INIT`, "or, for a failure before any start", `FAIL` (R119). -/
def canBeginRun : Instr → Bool
  | .init _ => true
  | .failSrcUnavail => true
  | .failReadFail => true
  | .failReleaseFail => true
  | .byte _ => false
  | .eos => false
  | .rel => false
  | .fold => false
  | .fin => false

/-- `INIT` with any tag. -/
def isInit : Instr → Bool
  | .init _ => true
  | .byte _ => false
  | .eos => false
  | .rel => false
  | .failSrcUnavail => false
  | .failReadFail => false
  | .failReleaseFail => false
  | .fold => false
  | .fin => false

/-- The stream byte a command carries, as a list of at most one. -/
def streamByte : Instr → List Byte
  | .byte b => [b]
  | .init _ => []
  | .eos => []
  | .rel => []
  | .failSrcUnavail => []
  | .failReadFail => []
  | .failReleaseFail => []
  | .fold => []
  | .fin => []

/-- What a host may drive for the sources after this one: nothing, or first a reset, an `INIT` or a `FAIL`. Any other word
begins no run, so it is still this source's. -/
def beginsSource (later : List HostDrive) : Bool :=
  match later.find? (fun d => !d.silent) with
  | none => true
  | some d =>
    d.rst ||
      match decode d.cmd with
      | .ok i => canBeginRun i
      | .error _ => false

/-- "The host has no further command for this source" (R119): before `later`, which is for other sources, it drives
nothing. -/
def State.hostDone (later : List HostDrive) (s : State) : Bool :=
  later.isSuffixOf s.port && (s.port.take (s.port.length - later.length)).all HostDrive.silent

/-- The final state of a run is good (R119). -/
def State.endedGood (later : List HostDrive) (s : State) : Bool := decide (s.phase = .done) && s.hostDone later

/-- The final state of a run is failed (R119). -/
def State.endedFailed (later : List HostDrive) (s : State) : Bool := decide (s.phase = .failed) && s.hostDone later

/-- The run has ended in `s` (R119): never in `CONSUMING`, `FOLDING` or `HOLD`. -/
def State.ended (later : List HostDrive) (s : State) : Bool := s.endedGood later || s.endedFailed later

/-- The command or micro-operation the coming edge runs, if it runs one. -/
def State.issued? (s : State) : Option Instr :=
  match nextIssue s with
  | .run i => some i
  | .reset => none
  | .quiet => none
  | .illegal => none
  | .stuck => none

/-- The coming edge begins a run (R119): it accepts an `INIT` that starts a computation, or a `FAIL`, in `IDLE`, `DONE` or
`FAILED`. -/
def State.beginsRun (s : State) : Bool := s.issued?.any canBeginRun && s.phase.startable

/-- The coming edge accepts an `INIT` that starts a computation (R57, R67). -/
def State.startsComputation (s : State) : Bool := s.issued?.any isInit && s.phase.startable

/-- The host presents the words of these commands on successive edges (30_encoding.md R56). -/
def presentAll (is : List Instr) : List HostDrive := is.map (fun i => HostDrive.present (encode i))

/-- `INIT t; BYTE b_1; ...; BYTE b_n; EOS` (42_fold_finalize.md R77). -/
def streamCommands (tag : Byte) (bs : List Byte) : List Instr := .init tag :: bs.map .byte ++ [.eos]

/-- What a host that follows R56 and R120 drives for one computation on a source that opens, reads and closes without
failure: the stream, then `REL`, held while `cmd_ready = 0` (for `L(n) + 1` edges, R112) and on the edge that accepts it. -/
def computeDrives (tag : Byte) (bs : List Byte) : List HostDrive :=
  presentAll (streamCommands tag bs) ++ List.replicate (foldSteps bs.length + 2) (HostDrive.present (encode .rel))

/-- `k` clock edges from `s`, stopping at the first stop. It is `Host.Core.run` of this machine
(`Sys2Proof.Machine.runFrom_eq_run`). -/
def runFrom : Nat → State → Host.Outcome State Fault Refusal
  | 0, s => .next s
  | k + 1, s =>
    match step s with
    | .next t => runFrom k t
    | .fault r => .fault r
    | .refused r => .refused r

/-- "A **run** of one core is one computation" (R119): the `k` edges from `s` to `t`, where the host drives `later` for the
sources after this one. -/
structure IsRun (later : List HostDrive) (s : State) (k : Nat) (t : State) : Prop where
  /-- "it begins at the acceptance of an `INIT` (or ... of a `FAIL` in `IDLE`, `DONE` or `FAILED`)" -/
  begins : s.beginsRun = true
  /-- what is left to the later sources can begin a source -/
  next : beginsSource later = true
  /-- "one computation": within the run no reset and no second start -/
  one : ∀ j u, j < k → runFrom j s = .next u →
    u.drive.rst = false ∧ (0 < j → u.startsComputation = false)
  /-- it leads to `t` -/
  leads : 0 < k ∧ runFrom k s = .next t
  /-- where the run has ended -/
  ended : t.ended later = true
  /-- "at the first later state" where it has -/
  first : ∀ j u, 0 < j → j < k → runFrom j s = .next u → u.ended later = false

/-- The bytes of the `BYTE` commands accepted on the `k` edges from `s`, in order (44_result_output.md R91). -/
def acceptedBytes : Nat → State → List Byte
  | 0, _ => []
  | k + 1, s =>
    match step s with
    | .next t => (s.issued?.toList.flatMap streamByte) ++ acceptedBytes k t
    | .fault _ => []
    | .refused _ => []

end Sys2Proof.Machine
end

