-- ==== Sys2Proof/Certificates/Slice0/Obligations.lean ====
section
/-! DEFINITION. The statements about CKSUM-CORE, from the numbered rules of spec/. A statement that gives a next state as a
record update says its frame at once: every field not named in the update is unchanged. There is no writable memory, so no
statement speaks of stored bytes (20_memory.md R34). -/

open Sys2Proof Sys2Proof.Machine

/-! ## What the statements share -/

/-- `Fault({c})` spelled out (R97): the bit and the code of one cause. -/
def Sys2Proof.Claims.faulted (bit : BitVec 6) (code : BitVec 3) (s : State) : State :=
  { s with
    fault := s.fault ||| bit
    primary := if s.primary = 0#3 then code else s.primary
    phase := .failed }

/-- The coming edge runs the command or micro-operation `i`. -/
abbrev Sys2Proof.Claims.runs (s : State) (i : Instr) : Prop := nextIssue s = .run i

/-- The coming edge starts a computation: an `INIT` in a phase where it is legal (R57). -/
abbrev Sys2Proof.Claims.starts (s : State) : Prop :=
  ∃ tag, nextIssue s = .run (.init tag) ∧ s.phase.startable = true

/-- A phase in which a command is accepted and the legality matrix has a column (R57). -/
abbrev Sys2Proof.Claims.accepts (p : Phase) : Prop :=
  p = .idle ∨ p = .consuming ∨ p = .hold ∨ p = .done ∨ p = .failed

/-- The `P` cells of the legality matrix, read off R57 row by row; `rs` is `REL_SEEN`. -/
def Sys2Proof.Claims.outOfPhase (rs : Bool) : Instr → Phase → Prop
  | .init _, p => p = .consuming ∨ p = .hold
  | .byte _, p => p = .idle ∨ p = .hold ∨ p = .done ∨ p = .failed
  | .eos, p => p = .idle ∨ p = .hold ∨ p = .done ∨ p = .failed
  | .rel, p => p = .idle ∨ p = .consuming ∨ p = .done ∨ (p = .failed ∧ rs = true)
  | .failSrcUnavail, _ => False
  | .failReadFail, _ => False
  | .failReleaseFail, _ => False
  | .fold, _ => False
  | .fin, _ => False

/-- The polynomial over GF(2) of a bit vector, bit `k` the coefficient of `X^k` (R66). -/
noncomputable def Sys2Proof.Claims.polyOf {w : Nat} (v : BitVec w) : Polynomial (ZMod 2) :=
  (List.range w).foldr (fun k p => (if v.getLsbD k then Polynomial.X ^ k else 0) + p) 0

open Sys2Proof.Claims

/-! ## The commands and micro-operations, one statement each: effect, legality, completion, frame -/

/-- R67: the encoding, the effect in `IDLE`, `DONE`, `FAILED`, the fault in `CONSUMING` and `HOLD`, and that no edge in
`FOLDING` accepts it. -/
def Obligations.InitStartsComputation : Prop :=
  ∀ (tag : Byte) (s : State),
    decode (0x1#4 ++ tag) = .ok (.init tag) ∧
    (s.phase = .idle ∨ s.phase = .done ∨ s.phase = .failed →
      exec (.init tag) s = .next { s with
        acc := 0#32, cnt := 0, fault := 0#6, primary := 0#3, relSeen := false, tag := tag, phase := .consuming }) ∧
    (s.phase = .consuming ∨ s.phase = .hold → exec (.init tag) s = .next (faulted 0b010000#6 5#3 s)) ∧
    (s.phase = .folding → ¬ runs s (.init tag))

/-- R68: one update and one count in `CONSUMING`; `CNT_OVF` with `ACC` and `CNT` kept when `CNT = 2^CNT_W - 1`; the fault
in the other phases; not accepted in `FOLDING`. The premise `CNT < 2^CNT_W` is the register's width (R13). -/
def Obligations.ByteAccumulatesAndCounts : Prop :=
  ∀ (b : Byte) (s : State),
    decode (0x2#4 ++ b) = .ok (.byte b) ∧
    (s.phase = .consuming → s.cnt < 2 ^ s.cfg.cntW - 1 →
      exec (.byte b) s = .next { s with
        acc := (s.acc.extractLsb' 0 24 ++ 0x00#8) ^^^ rom (s.acc.extractLsb' 24 8 ^^^ b), cnt := s.cnt + 1 }) ∧
    (s.phase = .consuming → s.cnt = 2 ^ s.cfg.cntW - 1 →
      exec (.byte b) s = .next (faulted 0b100000#6 6#3 s)) ∧
    (s.phase = .idle ∨ s.phase = .hold ∨ s.phase = .done ∨ s.phase = .failed →
      exec (.byte b) s = .next (faulted 0b010000#6 5#3 s)) ∧
    (s.phase = .folding → ¬ runs s (.byte b))

/-- R69: only `PHASE` moves, and `cmd_ready` becomes 0; `0x3aa` with `aa` not zero is illegal. -/
def Obligations.EosStartsFold : Prop :=
  ∀ (arg : Byte) (s : State),
    decode 0x300#12 = .ok .eos ∧
    (arg ≠ 0#8 → ∃ why, decode (0x3#4 ++ arg) = .error why) ∧
    (s.phase = .consuming →
      exec .eos s = .next { s with phase := .folding } ∧ cmdReady { s with phase := .folding } = false) ∧
    (s.phase = .idle ∨ s.phase = .hold ∨ s.phase = .done ∨ s.phase = .failed →
      exec .eos s = .next (faulted 0b010000#6 5#3 s)) ∧
    (s.phase = .folding → ¬ runs s .eos)

/-- R74: the internal word, illegal on the host port; when it is enabled; both writes from the count before the step; the
last input byte of a fold is never zero. -/
def Obligations.FoldFoldsLowByteOfCount : Prop :=
  decodeOp 0x800#12 = .ok .fold ∧ (∃ why, decode 0x800#12 = .error why) ∧
  ∀ s : State,
    (s.drive.rst = false → (runs s .fold ↔ s.phase = .folding ∧ s.cnt ≠ 0)) ∧
    (s.phase = .folding → s.cnt ≠ 0 →
      exec .fold s = .next { s with
        acc := (s.acc.extractLsb' 0 24 ++ 0x00#8) ^^^
          rom (s.acc.extractLsb' 24 8 ^^^ BitVec.ofNat 8 (s.cnt % 256)),
        cnt := s.cnt / 256 }) ∧
    (s.cnt ≠ 0 → s.cnt / 256 = 0 → BitVec.ofNat 8 (s.cnt % 256) ≠ 0#8)

/-- R76: the internal word, illegal on the host port; when it is enabled; all 32 bits inverted, `PHASE <- HOLD`,
`cmd_ready` 1 and `result_valid` 0 afterwards. -/
def Obligations.FinComplementsAccumulator : Prop :=
  decodeOp 0x900#12 = .ok .fin ∧ (∃ why, decode 0x900#12 = .error why) ∧
  ∀ s : State,
    (s.drive.rst = false → (runs s .fin ↔ s.phase = .folding ∧ s.cnt = 0)) ∧
    (s.phase = .folding → s.cnt = 0 →
      ∃ t, exec .fin s = .next t ∧ t = { s with acc := s.acc ^^^ 0xFFFFFFFF#32, phase := .hold } ∧
        cmdReady t = true ∧ resultValid t = false)

/-- R80: from `HOLD` to `DONE` with the result shown; in `FAILED` with `REL_SEEN = 0` only `REL_SEEN`; elsewhere the fault,
`REL_SEEN` not written; not accepted in `FOLDING`; `0x4aa` with `aa` not zero is illegal. -/
def Obligations.RelReportsRelease : Prop :=
  ∀ (arg : Byte) (s : State),
    decode 0x400#12 = .ok .rel ∧
    (arg ≠ 0#8 → ∃ why, decode (0x4#4 ++ arg) = .error why) ∧
    (s.phase = .hold →
      ∃ t, exec .rel s = .next t ∧ t = { s with relSeen := true, phase := .done } ∧
        resultValid t = true ∧ resultPort t = s.acc) ∧
    (s.phase = .failed → s.relSeen = false → exec .rel s = .next { s with relSeen := true }) ∧
    (s.phase = .idle ∨ s.phase = .consuming ∨ s.phase = .done ∨ (s.phase = .failed ∧ s.relSeen = true) →
      exec .rel s = .next (faulted 0b010000#6 5#3 s)) ∧
    (s.phase = .folding → ¬ runs s .rel)

/-- R82: the three causes, in every phase that accepts; a release failure is the release report of the computation, and a
second one is a `PROTOCOL` fault as well; `ACC`, `CNT`, `TAG` not written; the illegal `FAIL` words. -/
def Obligations.FailCausesFault : Prop :=
  (decode 0x501#12 = .ok .failSrcUnavail ∧ decode 0x502#12 = .ok .failReadFail ∧
    decode 0x503#12 = .ok .failReleaseFail) ∧
  (∀ arg : Byte, arg = 0#8 ∨ arg.extractLsb' 2 6 ≠ 0#6 → ∃ why, decode (0x5#4 ++ arg) = .error why) ∧
  ∀ s : State, accepts s.phase →
    exec .failSrcUnavail s = .next (faulted 0b000001#6 1#3 s) ∧
    exec .failReadFail s = .next (faulted 0b000010#6 2#3 s) ∧
    (s.relSeen = false →
      exec .failReleaseFail s = .next (faulted 0b000100#6 3#3 { s with relSeen := true })) ∧
    (s.relSeen = true →
      exec .failReleaseFail s = .next (faulted 0b010100#6 3#3 s))

/-! ## Faults -/

/-- R97: for every non-empty set of causes (`c` and `cs`), bit by bit and with the least code; nothing else is written. -/
def Obligations.FaultEntryIsWholeEffect : Prop :=
  ∀ (c : Cause) (cs : List Cause) (s : State),
    (∀ k, k < 6 → ((raiseFault c cs s).fault.getLsbD k = true ↔
      s.fault.getLsbD k = true ∨ ∃ d ∈ c :: cs, d.code - 1 = k)) ∧
    (s.primary = 0#3 → ∃ d ∈ c :: cs, (raiseFault c cs s).primary = BitVec.ofNat 3 d.code ∧
      ∀ e ∈ c :: cs, d.code ≤ e.code) ∧
    (s.primary ≠ 0#3 → (raiseFault c cs s).primary = s.primary) ∧
    raiseFault c cs s = { s with
      fault := (raiseFault c cs s).fault, primary := (raiseFault c cs s).primary, phase := .failed }

/-- R18, R19 (the clauses on clearing and keeping): a bit of `FAULT` is cleared, and a non-zero `PRIMARY` changed, only by `INIT` and reset. -/
def Obligations.FaultBitsAreSticky : Prop :=
  ∀ s t : State, step s = .next t → s.drive.rst = false → ¬ starts s →
    (∀ k, s.fault.getLsbD k = true → t.fault.getLsbD k = true) ∧
    (s.primary ≠ 0#3 → t.primary = s.primary) ∧
    (t.primary ≠ s.primary → s.primary = 0#3 ∧ t.phase = .failed)

/-- R57, R58: a well-formed host command accepted in a phase where the matrix says `P` sets `FAULT[4]`, sets `PRIMARY` to 5
if it was 0, goes to `FAILED` and has no other effect; where the matrix says `ok` it does not raise `PROTOCOL`, but for the
second release report of `FAIL RELEASE_FAIL`; in `FOLDING` no edge accepts it. -/
def Obligations.LegalityMatrixGoverns : Prop :=
  ∀ (i : Instr) (s : State), i.wf .host = true →
    (outOfPhase s.relSeen i s.phase → exec i s = .next (faulted 0b010000#6 5#3 s)) ∧
    (accepts s.phase → ¬ outOfPhase s.relSeen i s.phase →
      ∃ t, exec i s = .next t ∧
        (s.fault.getLsbD 4 = false → t.fault.getLsbD 4 = true → i = .failReleaseFail ∧ s.relSeen = true)) ∧
    (s.phase = .folding → ¬ runs s i)

/-- R50: the illegal words are exactly those the rule lists, and accepting one has the effect of `Fault({ILLEGAL_CMD})` and
no other. -/
def Obligations.IllegalWordsFault : Prop :=
  (∀ w : CmdWord, (∃ why, decode w = .error why) ↔
    (opField w ∈ [0x0#4, 0x6#4, 0x7#4, 0xA#4, 0xB#4, 0xC#4, 0xD#4, 0xE#4, 0xF#4] ∨
     (opField w = 0x3#4 ∨ opField w = 0x4#4) ∧ argField w ≠ 0x00#8 ∨
     opField w = 0x5#4 ∧ ((argField w).extractLsb' 2 6 ≠ 0#6 ∨ (argField w).extractLsb' 0 2 = 0#2) ∨
     opField w = 0x8#4 ∨ opField w = 0x9#4)) ∧
  ∀ (s : State) (w : CmdWord) (why : Illegal) (rest : List HostDrive),
    accepts s.phase → s.port = HostDrive.present w :: rest → decode w = .error why →
    step s = .next (faulted 0b001000#6 4#3 { s with port := rest })

/-- R98: from a state with no fault recorded, one edge records at most one cause, unless it accepts `FAIL RELEASE_FAIL` with
`REL_SEEN = 1`, which records two and takes the lower code; and a malformed word records `ILLEGAL_CMD` only, whatever the
phase that accepts it. -/
def Obligations.OneCausePerStep : Prop :=
  (∀ s t : State, step s = .next t → s.fault = 0#6 → s.primary = 0#3 →
    (t.fault = 0#6 ∧ t.primary = 0#3) ∨
    (∃ c : Cause, t.fault = 1#6 <<< (c.code - 1) ∧ t.primary = BitVec.ofNat 3 c.code) ∨
    (runs s .failReleaseFail ∧ s.relSeen = true ∧ t.fault = 0b010100#6 ∧ t.primary = 3#3)) ∧
  (∀ (s t : State) (why : Illegal), step s = .next t → s.drive.rst = false → s.drive.cmdValid = true →
    accepts s.phase → decode s.drive.cmd = .error why → t.fault = s.fault ||| 0b001000#6)

/-- R100 (the spec's own inference, marked derived there): a step that ends in `FAILED` leaves the state as it was but for `FAULT`, `PRIMARY`, `PHASE` and the port's edge
(the model's own); `REL_SEEN` changes only by `FAIL RELEASE_FAIL` and by the clean release report of R80, which is no fault. -/
def Obligations.FaultsArePrecise : Prop :=
  ∀ s t : State, step s = .next t → t.phase = .failed →
    t = { s with
      fault := t.fault, primary := t.primary, phase := .failed, relSeen := t.relSeen, port := s.port.tail } ∧
    (t.relSeen = s.relSeen ∨ (runs s .failReleaseFail ∧ t.relSeen = true) ∨
      (runs s .rel ∧ s.phase = .failed ∧ t.fault = s.fault ∧ t.primary = s.primary))

/-- R101, and R102 (the spec's own inference, marked derived there): the only exits from `FAILED` are a starting `INIT` and reset; under everything else the fault record only
grows, and each well-formed command does in `FAILED` what R102 says. -/
def Obligations.FailedIsAbsorbing : Prop :=
  (∀ s t : State, s.phase = .failed → step s = .next t → t.phase ≠ .failed →
    (s.drive.rst = true ∧ t.phase = .idle) ∨ (∃ tag, runs s (.init tag)) ∧ t.phase = .consuming ∧
      t.fault = 0#6 ∧ t.primary = 0#3 ∧ t.relSeen = false) ∧
  (∀ s : State, s.phase = .failed → s.primary ≠ 0#3 → ∀ b : Byte,
    exec (.byte b) s = .next { s with fault := s.fault ||| 0b010000#6 } ∧
    exec .eos s = .next { s with fault := s.fault ||| 0b010000#6 } ∧
    exec .failSrcUnavail s = .next { s with fault := s.fault ||| 0b000001#6 } ∧
    exec .failReadFail s = .next { s with fault := s.fault ||| 0b000010#6 } ∧
    exec .failReleaseFail s = .next { s with
      fault := s.fault ||| (if s.relSeen then 0b010100#6 else 0b000100#6), relSeen := true } ∧
    exec .rel s = .next (if s.relSeen then { s with fault := s.fault ||| 0b010000#6 }
      else { s with relSeen := true }))

/-- R83: `FAIL READ_FAIL` then `FAIL RELEASE_FAIL` keeps both bits and the first cause; a release failure in `HOLD` alone is
the primary and no digest is shown. The premises are those of a computation with no fault so far (R21). -/
def Obligations.ReleaseFailureFollowsPrimary : Prop :=
  ∀ s : State, s.fault = 0#6 → s.primary = 0#3 → s.relSeen = false →
    (s.phase = .consuming →
      ∃ t u, exec .failReadFail s = .next t ∧ exec .failReleaseFail t = .next u ∧
        u.fault = 0b000110#6 ∧ u.primary = 2#3 ∧ u.phase = .failed ∧ u.relSeen = true) ∧
    (s.phase = .hold →
      ∃ t, exec .failReleaseFail s = .next t ∧ t.fault = 0b000100#6 ∧ t.primary = 3#3 ∧ digest? t = none)

/-- R20: `REL_SEEN` is 0 after `INIT` and reset; it becomes 1 exactly by a `REL` that does not fault and by
`FAIL RELEASE_FAIL`, whether or not that also raises `PROTOCOL`; and a release report that comes when it is already 1 raises
`PROTOCOL`. The premise `Inv` is R21's (`REL_SEEN = 1` only in `DONE` and `FAILED`). -/
def Obligations.ReleaseReportedOnce : Prop :=
  (∀ s t : State, step s = .next t → s.drive.rst = true ∨ starts s → t.relSeen = false) ∧
  (∀ s t : State, step s = .next t → runs s .failReleaseFail → t.relSeen = true) ∧
  (∀ s t : State, step s = .next t → s.relSeen = false →
    (t.relSeen = true ↔
      (runs s .rel ∧ (s.phase = .hold ∨ s.phase = .failed)) ∨ (runs s .failReleaseFail ∧ accepts s.phase))) ∧
  (∀ s t : State, step s = .next t → s.Inv → s.relSeen = true → (runs s .rel ∨ runs s .failReleaseFail) →
    t.fault.getLsbD 4 = true ∧ t.phase = .failed)

/-- R96: what the two failure classes D0 tests leave. -/
def Obligations.FailureClassesShowNoResult : Prop :=
  (∀ s : State, accepts s.phase → ∃ t, exec .failSrcUnavail s = .next t ∧
    t.phase = .failed ∧ t.fault.getLsbD 0 = true ∧ resultValid t = false) ∧
  (∀ s : State, accepts s.phase → ∃ t, exec .failReadFail s = .next t ∧
    t.phase = .failed ∧ t.fault.getLsbD 1 = true ∧ resultValid t = false)

/-- R18, R19, R94: the codes 1 to 6, the `FAULT` bit code minus one, no two causes alike. -/
def Obligations.CauseCodesAndBits : Prop :=
  [Cause.srcUnavail, .readFail, .releaseFail, .illegalCmd, .protocol, .cntOvf].map (fun c => (c.code, c.bit)) =
    [(1, 0b000001#6), (2, 0b000010#6), (3, 0b000100#6), (4, 0b001000#6), (5, 0b010000#6), (6, 0b100000#6)] ∧
  (∀ c d : Cause, c.code = d.code → c = d)

/-! ## The machine: reset, steps, phases, invariants -/

/-- R30, R109: the five control registers after reset and the ports; `ACC` and `CNT` are not named. -/
def Obligations.ResetStateAsSpecified : Prop :=
  State.reset.phase = .idle ∧ State.reset.fault = 0#6 ∧ State.reset.primary = 0#3 ∧ State.reset.relSeen = false ∧
  State.reset.tag = 0#8 ∧ cmdReady State.reset = true ∧ resultValid State.reset = false ∧
  resultPort State.reset = 0#32 ∧ decLenPort State.reset = 0#4 ∧ decStrPort State.reset = 0#80 ∧
  status State.reset = 0#21

/-- R109: whatever the phase and whatever is presented, an edge with `rst = 1` takes `RESET` and nothing else. `ACC` and
`CNT` get some value; that it fits `CNT_W` bits is all that is said of it (the free values of log 3). -/
def Obligations.ResetStepBeatsEverything : Prop :=
  ∀ s : State, s.drive.rst = true →
    ∃ (a : Word) (n k : Nat), n < 2 ^ s.cfg.cntW ∧
      step s = .next { s with
        phase := .idle, fault := 0#6, primary := 0#3, relSeen := false, tag := 0#8, acc := a, cnt := n,
        port := s.port.tail, freeCtr := k }

/-- R8: the step kinds and when each is enabled, `RESET` first; the step of an edge is the meaning of the decoded command or
of the issued micro-operation, on the state whose port has moved past the edge; when no step is enabled only the port moves. -/
def Obligations.StepRunsTheEnabledStep : Prop :=
  ∀ s : State,
    (s.drive.rst = true → step s = .next (resetStep { s with port := s.port.tail })) ∧
    (s.drive.rst = false →
      (∀ i, s.phase ≠ .folding → s.phase.reserved = false → s.drive.cmdValid = true → decode s.drive.cmd = .ok i →
        step s = exec i { s with port := s.port.tail }) ∧
      (∀ why, s.phase ≠ .folding → s.phase.reserved = false → s.drive.cmdValid = true →
        decode s.drive.cmd = .error why → step s = .next (raiseFault .illegalCmd [] { s with port := s.port.tail })) ∧
      (s.phase = .folding → s.cnt ≠ 0 → step s = exec .fold { s with port := s.port.tail }) ∧
      (s.phase = .folding → s.cnt = 0 → step s = exec .fin { s with port := s.port.tail }) ∧
      (s.phase ≠ .folding → s.drive.cmdValid = false → step s = .next { s with port := s.port.tail }))

/-- R56 and 93_implementation_defined.md I10: in `FOLDING` what the host presents has no effect: two ports that differ only in the word and `cmd_valid` of the
coming edge lead to the same outcome. -/
def Obligations.FoldingIgnoresThePort : Prop :=
  ∀ (s : State) (d e : HostDrive) (rest : List HostDrive), s.phase = .folding → d.rst = false → e.rst = false →
    step { s with port := d :: rest } = step { s with port := e :: rest }

/-- The treatment of 93_implementation_defined.md I7, read into the model by log 8: a command presented while `PHASE` is 6 or 7 finds no step (the model's fault); reset still works there. -/
def Obligations.ReservedPhaseIsStuck : Prop :=
  ∀ s : State, s.phase = .reserved6 ∨ s.phase = .reserved7 →
    (s.drive.rst = false → s.drive.cmdValid = true → step s = .fault .stuckReservedPhase) ∧
    (s.drive.rst = true → ∃ t, step s = .next t ∧ t.phase = .idle)

/-- The machine never stops while `PHASE` is one of 0 to 5, whatever the host drives: every edge leads to a next state
(93_implementation_defined.md section 1: "every command in every reachable state has exactly one outcome"). -/
def Obligations.EveryEdgeHasANextState : Prop :=
  ∀ s : State, s.phase.reserved = false → ∃ t, step s = .next t

/-- R21 (a) to (d), (f) (the spec's own inference, marked derived there), and the width of `CNT`: the state after reset meets the invariants. -/
def Obligations.ResetMeetsInvariants : Prop := State.reset.Inv

/-- R21 (a) to (d), (f) (the spec's own inference, marked derived there), and the width of `CNT`: every step keeps the invariants, from every state that meets them. -/
def Obligations.EveryStepKeepsInvariants : Prop :=
  ∀ s t : State, s.Inv → step s = .next t → t.Inv

/-- R17: every transition of `PHASE` is a row of the table, made by the step the row names; a pair not listed does not
occur. The first case is an edge on which `PHASE` is not written. -/
def Obligations.PhaseTransitionsAreTheListedOnes : Prop :=
  ∀ s t : State, s.phase.reserved = false → step s = .next t →
    (t.phase = s.phase ∧ nextIssue s = .quiet) ∨
    (t.phase = .idle ∧ s.drive.rst = true) ∨
    (t.phase = .consuming ∧ starts s) ∨
    (s.phase = .consuming ∧ t.phase = .consuming ∧ ∃ b, runs s (.byte b)) ∨
    (s.phase = .consuming ∧ t.phase = .folding ∧ runs s .eos) ∨
    (s.phase = .folding ∧ t.phase = .folding ∧ runs s .fold) ∨
    (s.phase = .folding ∧ t.phase = .hold ∧ runs s .fin) ∨
    (s.phase = .hold ∧ t.phase = .done ∧ runs s .rel) ∨
    (s.phase = .failed ∧ t.phase = .failed ∧ runs s .rel ∧ s.relSeen = false) ∨
    (s.phase ≠ .folding ∧ t.phase = .failed ∧
      (runs s .failSrcUnavail ∨ runs s .failReadFail ∨ runs s .failReleaseFail ∨ nextIssue s = .illegal ∨
        (∃ i, runs s i ∧ outOfPhase s.relSeen i s.phase) ∨
        (∃ b, runs s (.byte b) ∧ s.phase = .consuming ∧ 2 ^ s.cfg.cntW - 1 ≤ s.cnt)))

/-- R11: each register is written only by the steps its row names, R22: `TAG` only by `INIT` and reset; the configuration is
never written and the free-value counter only at a reset (the model's own fields). -/
def Obligations.RegistersWrittenOnlyAsListed : Prop :=
  ∀ s t : State, step s = .next t → s.drive.rst = false →
    (t.acc ≠ s.acc → starts s ∨ (∃ b, runs s (.byte b)) ∨ runs s .fold ∨ runs s .fin) ∧
    (t.cnt ≠ s.cnt → starts s ∨ (∃ b, runs s (.byte b)) ∨ runs s .fold) ∧
    (t.fault ≠ s.fault → starts s ∨ t.phase = .failed) ∧
    (t.primary ≠ s.primary → starts s ∨ t.phase = .failed) ∧
    (t.relSeen ≠ s.relSeen → starts s ∨ runs s .rel ∨ runs s .failReleaseFail) ∧
    (t.tag ≠ s.tag → ∃ tag, runs s (.init tag) ∧ s.phase.startable = true ∧ t.tag = tag) ∧
    t.cfg = s.cfg ∧ t.freeCtr = s.freeCtr ∧ t.port = s.port.tail

/-- R72 (the spec's own inference, marked derived there): none of the stream commands reads `TAG`, `FAULT`, `PRIMARY` or `REL_SEEN`: two states that differ only in these go to
states that agree in `ACC`, `CNT` and `PHASE`. -/
def Obligations.StreamCommandsReadNoStatus : Prop :=
  ∀ (i : Instr) (s t : State) (tag : Byte) (f : BitVec 6) (p : BitVec 3) (r : Bool),
    ((∃ g, i = .init g) ∨ (∃ b, i = .byte b) ∨ i = .eos) → exec i s = .next t →
    ∃ u, exec i { s with tag := tag, fault := f, primary := p, relSeen := r } = .next u ∧
      u.acc = t.acc ∧ u.cnt = t.cnt ∧ u.phase = t.phase

/-- R70 (the spec's own inference, marked derived there): `INIT` wipes every trace of the previous computation: from two states of one machine with the same port, whatever
their registers, it leads to the same state. -/
def Obligations.InitForgetsThePast : Prop :=
  ∀ (tag : Byte) (s t : State), s.phase.startable = true → t.phase.startable = true →
    s.cfg = t.cfg → s.port = t.port → s.freeCtr = t.freeCtr → exec (.init tag) s = exec (.init tag) t

/-! ## Encoding -/

/-- R48: a word that fits a host row decodes to the row's command, a word that fits an internal row is that micro-operation's
word; a word no host row fits is illegal on the host port; no two rows fit one word; 517 words are legal. -/
def Obligations.DecodeFollowsOpcodeMap : Prop :=
  (∀ w : CmdWord,
    (w &&& 0xF00#12 = 0x100#12 → decode w = .ok (.init (argField w))) ∧
    (w &&& 0xF00#12 = 0x200#12 → decode w = .ok (.byte (argField w))) ∧
    (w &&& 0xFFF#12 = 0x300#12 → decode w = .ok .eos) ∧
    (w &&& 0xFFF#12 = 0x400#12 → decode w = .ok .rel) ∧
    (w &&& 0xFFF#12 = 0x501#12 → decode w = .ok .failSrcUnavail) ∧
    (w &&& 0xFFF#12 = 0x502#12 → decode w = .ok .failReadFail) ∧
    (w &&& 0xFFF#12 = 0x503#12 → decode w = .ok .failReleaseFail) ∧
    (w &&& 0xFFF#12 = 0x800#12 → decodeOp w = .ok .fold) ∧
    (w &&& 0xFFF#12 = 0x900#12 → decodeOp w = .ok .fin)) ∧
  (∀ w : CmdWord, (∃ i, decode w = .ok i) ↔ ∃ r ∈ opcodeMap, r.port = .host ∧ r.fits w = true) ∧
  (∀ w : CmdWord, (opcodeMap.filter (fun r => r.fits w)).length ≤ 1) ∧
  ((List.range 4096).filter (fun n => (decode (BitVec.ofNat 12 n)).isOk)).length = 517

/-- For every instruction, with every operand: its word decodes to it; a host command's word decodes to it on the host port
and a micro-operation's is refused there; and a word that decodes is the word of what it decodes to. -/
def Obligations.DecodeEncodeAgree : Prop :=
  (∀ i : Instr, decodeOp (encode i) = .ok i) ∧
  (∀ i : Instr, i.wf .host = true → decode (encode i) = .ok i) ∧
  (∀ i : Instr, i.wf .internal = true → decode (encode i) = .error .microOpOnHostPort) ∧
  (∀ (w : CmdWord) (i : Instr), decodeOp w = .ok i → encode i = w)

/-- Words of R48 written out bit by bit, one a row. -/
def Obligations.WrittenWordsDecode : Prop :=
  [0b000110100101#12, 0b001010000000#12, 0b001100000000#12, 0b010000000000#12, 0b010100000001#12, 0b010100000010#12,
   0b010100000011#12].map decode =
    [.ok (.init 0xA5#8), .ok (.byte 0x80#8), .ok .eos, .ok .rel, .ok .failSrcUnavail, .ok .failReadFail,
     .ok .failReleaseFail] ∧
  [0b100000000000#12, 0b100100000000#12].map decodeOp = [.ok .fold, .ok .fin]

/-- R55: the four pseudo-instructions and their expansions, as words. -/
def Obligations.PseudoInstructionsExpand : Prop :=
  (∀ bs : List Byte, bs ≠ [] →
    assemble [.data (bs.map BitVec.toNat)] = some (bs.map (fun b => encode (.byte b)))) ∧
  (∀ text : List Nat, (∀ c ∈ text, c < 128) →
    assemble [.ascii text] = some (text.map (fun c => encode (.byte (BitVec.ofNat 8 c))))) ∧
  (∀ n : Nat, assemble [.zeros n] = some (List.replicate n (encode (.byte 0#8)))) ∧
  (∀ (tag : Byte) (text : List Nat), (∀ c ∈ text, c < 128) →
    assemble [.compute tag.toNat text] =
      some (encode (.init tag) :: text.map (fun c => encode (.byte (BitVec.ofNat 8 c))) ++
        [encode .eos, encode .rel]))

/-- R54: every host command has a source line whose word is the command's, no source line stands for a micro-operation, and
the lines the rule shows read as it says. -/
def Obligations.AssemblerCoversHostCommands : Prop :=
  (∀ i : Instr, i.wf .host = true → ∃ src : Source, src.wf = true ∧ assemble [src] = some [encode i]) ∧
  (∀ src : Source, ∀ i ∈ expand src, i.wf .host = true) ∧
  parseLine "INIT".toList = some [.init 0] ∧ parseLine "INIT 255".toList = some [.init 255] ∧
  parseLine "BYTE 0x61 # a".toList = some [.byte 97] ∧ parseLine "EOS".toList = some [.eos] ∧
  parseLine "REL".toList = some [.rel] ∧ parseLine "FAIL SRC_UNAVAIL".toList = some [.fail 1] ∧
  parseLine "FAIL READ_FAIL".toList = some [.fail 2] ∧ parseLine "FAIL RELEASE_FAIL".toList = some [.fail 3] ∧
  parseLine "FAIL 3".toList = some [.fail 3]

/-! ## The table and the update -/

/-- R24, R25: the table as listed is the table the generation rule gives. -/
def Obligations.RomIsTheGeneratedTable : Prop := ∀ i : Byte, rom i = romGen i

/-- R26 (the spec's own inference, marked derived there): the checks (a) to (d). -/
def Obligations.RomPassesTheChecks : Prop :=
  (rom 0#8 = 0#32 ∧ rom 1#8 = 0x04C11DB7#32 ∧ rom 255#8 = 0xB1F740B4#32) ∧
  (∀ i j : Byte, rom (i ^^^ j) = rom i ^^^ rom j) ∧
  [1#8, 2#8, 4#8, 8#8, 16#8, 32#8, 64#8, 128#8].map rom =
    [0x04C11DB7#32, 0x09823B6E#32, 0x130476DC#32, 0x2608EDB8#32, 0x4C11DB70#32, 0x9823B6E0#32, 0x34867077#32,
     0x690CE0EE#32] ∧
  Function.Injective rom ∧ Function.Bijective (fun i : Byte => (rom i).extractLsb' 24 8) ∧
  ((List.range 256).map (fun n => rom (BitVec.ofNat 8 n))).foldl (· ^^^ ·) 0#32 = 0#32 ∧
  ((List.range 256).map (fun n => rom (BitVec.ofNat 8 n))).foldl (· + ·) 0#32 = 0xFFFFFF80#32

/-- R66 (the spec marks it as general knowledge, G2): `ROM[i]` is the remainder of `i(x) * x^32` divided by `G(x) = x^32 + POLY(x)` over GF(2) (a polynomial of 32 bits has
a degree below that of `G`). -/
def Obligations.RomRowIsPolynomialRemainder : Prop :=
  ∀ i : Byte, ∃ q : Polynomial (ZMod 2),
    polyOf i * Polynomial.X ^ 32 = q * (Polynomial.X ^ 32 + polyOf poly) + polyOf (rom i)

/-- R60: the update as a shift and one ROM word, and the two worked examples. -/
def Obligations.UpdIsShiftAndLookup : Prop :=
  (∀ (a : Word) (b : Byte), upd a b = (a <<< 8) ^^^ rom ((a >>> 24).setWidth 8 ^^^ b)) ∧
  upd 0#32 0x61#8 = 0xA864DB20#32 ∧ upd 0xA864DB20#32 0x62#8 = 0x16DB664F#32

/-- R62 (the spec's own inference, marked derived there): at every width `N >= 8` sign extension and zero extension of the byte give the same masked index, and so do the
logical and the arithmetic shift of the accumulator. -/
def Obligations.SignedByteHasNoEffect : Prop :=
  (∀ (n : Nat) (x : BitVec n) (b : Byte), 8 ≤ n →
    (x ^^^ b.signExtend n).setWidth 8 = x.setWidth 8 ^^^ b ∧
    (x ^^^ b.setWidth n).setWidth 8 = x.setWidth 8 ^^^ b) ∧
  (∀ (a : Word) (b : Byte),
    updIndex a b = ((a.sshiftRight 24) ^^^ b.signExtend 32).setWidth 8 ∧
    updIndex a b = ((a >>> 24) ^^^ b.setWidth 32).setWidth 8)

/-- R64 (a claim the spec marks as general knowledge, G2, and asks a model to prove): eight steps of the feedback shift register, the bits of the byte most significant first, are one table update. -/
def Obligations.FeedbackRegisterEqualsTable : Prop :=
  ∀ (a : Word) (b : Byte), updSerial a b = upd a b

/-- R65 (the spec's own inference, marked derived there): linearity, the zero fixed point, a table word from zero, and the two injectivities. -/
def Obligations.UpdLaws : Prop :=
  (∀ (a a' : Word) (b b' : Byte), upd (a ^^^ a') (b ^^^ b') = upd a b ^^^ upd a' b') ∧
  upd 0#32 0#8 = 0#32 ∧ (∀ b : Byte, upd 0#32 b = rom b) ∧
  (∀ b : Byte, Function.Bijective (fun a : Word => upd a b)) ∧
  (∀ a : Word, Function.Injective (fun b : Byte => upd a b))

/-! ## Whole computations -/

/-- R71 (the spec's own inference, marked derived there): after an accepted `INIT` and `n` accepted `BYTE`s, `PHASE = CONSUMING`, `CNT = n`, `ACC = Acc(b_1 ... b_n)`, for
every stream of at most `2^CNT_W - 1` bytes. -/
def Obligations.CountingLaw : Prop :=
  ∀ (s : State) (tag : Byte) (bs : List Byte) (rest : List HostDrive),
    s.phase.startable = true → bs.length ≤ 2 ^ s.cfg.cntW - 1 →
    s.port = presentAll (.init tag :: bs.map .byte) ++ rest →
    runFrom (bs.length + 1) s = .next { s with
      acc := accOf bs, cnt := bs.length, fault := 0#6, primary := 0#3, relSeen := false, tag := tag,
      phase := .consuming, port := rest }

/-- R36, and R75 (the spec's own inference, marked derived there): the number of folds is that of the bytes of the count in its shortest base-256 writing, at most
`ceil(CNT_W / 8)`; the bytes are folded least significant first. -/
def Obligations.FoldTakesTheCountsBytes : Prop :=
  (foldSteps 0 = 0 ∧ ∀ n, n ≠ 0 → foldSteps n = 1 + foldSteps (n >>> 8)) ∧
  (∀ n, foldSteps n = (Nat.size n + 7) / 8) ∧
  (∀ n w, n < 2 ^ w → foldSteps n ≤ (w + 7) / 8) ∧
  (∀ (a : Word) (n : Nat), foldLen a n = ((Nat.digits 256 n).map (BitVec.ofNat 8)).foldl upd a)

/-- R121 (the spec's own inference, marked derived there): from `FOLDING`, while `rst` stays 0, the core reaches `HOLD` after exactly `L(CNT) + 1` edges, whatever else the
host drives, with the count folded into `ACC` and complemented; before that it is still `FOLDING`. R121 counts the core's
own steps; that each edge in `FOLDING` is one of them, with no stall, is the model's choice (log 14). -/
def Obligations.FoldAlwaysEnds : Prop :=
  ∀ s : State, s.phase = .folding → (∀ d ∈ s.port.take (foldSteps s.cnt + 1), d.rst = false) →
    runFrom (foldSteps s.cnt + 1) s = .next { s with
      acc := ~~~ foldLen s.acc s.cnt, cnt := 0, phase := .hold, port := s.port.drop (foldSteps s.cnt + 1) } ∧
    ∀ k, k ≤ foldSteps s.cnt → ∃ t, runFrom k s = .next t ∧ t.phase = .folding

/-- R77 (the spec's own inference, marked derived there): for every stream of at most `2^CNT_W - 1` bytes, `INIT; BYTE...; EOS` and the core's own steps end in `HOLD` with
`ACC = Cksum(s)`, whatever the state before and whatever the host drives during the fold (but for reset), for the schedule that presents
the commands back to back (pauses: `PausesBetweenCommandsChangeNothing`). -/
def Obligations.StreamEndsInHoldWithCksum : Prop :=
  ∀ (s : State) (tag : Byte) (bs : List Byte) (held rest : List HostDrive),
    s.phase.startable = true → bs.length ≤ 2 ^ s.cfg.cntW - 1 →
    held.length = foldSteps bs.length + 1 → (∀ d ∈ held, d.rst = false) →
    s.port = presentAll (streamCommands tag bs) ++ held ++ rest →
    runFrom (bs.length + 2 + (foldSteps bs.length + 1)) s = .next { s with
      acc := cksum bs, cnt := 0, fault := 0#6, primary := 0#3, relSeen := false, tag := tag, phase := .hold,
      port := rest }

/-- R122, R91 (the spec's own inferences, marked derived there): under the launch premises, with a host that reports no failure, the run ends good with `result = Cksum(s)` and
its decimal text on the ports, whatever the state before, for the schedule `computeDrives`, which presents the commands back
to back and nothing after (pauses and a next source: `PausingFaithfulRunEndsGood`). -/
def Obligations.FaithfulRunEndsGood : Prop :=
  ∀ (s : State) (tag : Byte) (bs : List Byte),
    s.phase.startable = true → bs.length ≤ 2 ^ s.cfg.cntW - 1 → s.port = computeDrives tag bs →
    ∃ t, runFrom (bs.length + foldSteps bs.length + 4) s = .next t ∧ t.endedGood [] = true ∧
      t.fault = 0#6 ∧ t.tag = tag ∧ resultPort t = cksum bs ∧ digest? t = some (cksum bs) ∧
      decLenPort t = BitVec.ofNat 4 (decStr (cksum bs)).length ∧ decStrPort t = packText (decStr (cksum bs))

/-- R71 (the spec's own inference, marked derived there) for a host that pauses: edges on which it presents nothing may stand
anywhere among the commands, before the first and after the last, and the state is that of the commands alone. -/
def Obligations.PausesBetweenCommandsChangeNothing : Prop :=
  ∀ (s : State) (tag : Byte) (bs : List Byte) (ds rest : List HostDrive),
    s.phase.startable = true → bs.length ≤ 2 ^ s.cfg.cntW - 1 →
    ds.filter (fun d => !d.silent) = presentAll (.init tag :: bs.map .byte) → s.port = ds ++ rest →
    runFrom ds.length s = .next { s with
      acc := accOf bs, cnt := bs.length, fault := 0#6, primary := 0#3, relSeen := false, tag := tag,
      phase := .consuming, port := rest }

/-- R119, R122, R91 (the last two the spec's own inferences, marked derived there): a faithful host that pauses where it
likes between its commands, drives anything but a reset during the fold, and may go on to other sources. From the accepted
`INIT` to the `REL` it is one run, and it ends good. -/
def Obligations.PausingFaithfulRunEndsGood : Prop :=
  ∀ (s : State) (tag : Byte) (bs : List Byte) (ds held pause later : List HostDrive),
    s.phase.startable = true → bs.length ≤ 2 ^ s.cfg.cntW - 1 →
    ds.filter (fun d => !d.silent) = presentAll (bs.map .byte) →
    held.length = foldSteps bs.length + 1 → (∀ d ∈ held, d.rst = false) → (∀ d ∈ pause, d.silent = true) →
    beginsSource later = true →
    s.port = HostDrive.present (encode (.init tag)) :: ds ++ HostDrive.present (encode .eos) :: held ++ pause ++
      HostDrive.present (encode .rel) :: later →
    ∃ t, IsRun later s (ds.length + held.length + pause.length + 3) t ∧ t.endedGood later = true ∧
      t.fault = 0#6 ∧ t.tag = tag ∧ resultPort t = cksum bs ∧ digest? t = some (cksum bs) ∧
      decLenPort t = BitVec.ofNat 4 (decStr (cksum bs)).length ∧ decStrPort t = packText (decStr (cksum bs))

/-- R91 and R119 for every host, faithful or not: a run that ends good carries the digest of exactly the bytes of the `BYTE`
commands the core accepted since its `INIT`, with no fault recorded; a run that begins with a `FAIL` ends failed.
(R91 is the spec's own inference, marked derived there.) -/
def Obligations.RunDigestIsOfAcceptedBytes : Prop :=
  ∀ (later : List HostDrive) (s : State) (k : Nat) (t : State), IsRun later s k t →
    (s.startsComputation = true → t.endedGood later = true →
      resultPort t = cksum (acceptedBytes k s) ∧ (acceptedBytes k s).length ≤ 2 ^ s.cfg.cntW - 1 ∧ t.fault = 0#6) ∧
    (s.startsComputation = false → t.endedFailed later = true)

/-- R119: "for a failure before any start, at the acceptance of a `FAIL` in `IDLE`, `DONE` or `FAILED`": that one edge is a
run, and it ends failed, with a cause recorded and no result, also where the host goes on to another source. -/
def Obligations.LoneFailIsAFailedRun : Prop :=
  ∀ (s : State) (i : Instr) (pause later : List HostDrive),
    s.phase.startable = true → i = .failSrcUnavail ∨ i = .failReadFail ∨ i = .failReleaseFail →
    (∀ d ∈ pause, d.silent = true) → beginsSource later = true →
    s.port = HostDrive.present (encode i) :: pause ++ later →
    ∃ t, IsRun later s 1 t ∧ t.endedFailed later = true ∧ t.fault ≠ 0#6 ∧ t.primary ≠ 0#3 ∧ digest? t = none

/-- R119: what a final state shows, and that `IDLE`, `CONSUMING`, `FOLDING` and `HOLD` are never final. The premise `Inv` is
R21's. -/
def Obligations.FinalStatesShowTheOutcome : Prop :=
  ∀ (later : List HostDrive) (s : State), s.Inv →
    (s.endedGood later = true → s.fault = 0#6 ∧ resultValid s = true ∧ resultPort s = s.acc) ∧
    (s.endedFailed later = true →
      s.fault ≠ 0#6 ∧ s.primary ≠ 0#3 ∧ resultValid s = false ∧ resultPort s = 0#32 ∧ digest? s = none) ∧
    (s.phase = .idle ∨ s.phase = .consuming ∨ s.phase = .folding ∨ s.phase = .hold → s.ended later = false)

/-- R78: `INIT; EOS` runs no `FOLD` and one `FIN`, whatever the state before: `ACC = 0xFFFFFFFF` in `HOLD`, the text
`4294967295`, also when `CNT_W` is any width. -/
def Obligations.EmptyStreamDigest : Prop :=
  (∀ (s : State) (tag : Byte) (d : HostDrive) (rest : List HostDrive),
    s.phase.startable = true → d.rst = false → s.port = presentAll [.init tag, .eos] ++ d :: rest →
    runFrom 3 s = .next { s with
      acc := 0xFFFFFFFF#32, cnt := 0, fault := 0#6, primary := 0#3, relSeen := false, tag := tag, phase := .hold,
      port := rest }) ∧
  decStr 0xFFFFFFFF#32 = [0x34#8, 0x32#8, 0x39#8, 0x34#8, 0x39#8, 0x36#8, 0x37#8, 0x32#8, 0x39#8, 0x35#8]

/-- R84 (the spec's own inference, marked derived there): a digest is visible after an edge only if it was visible before and no register changed, or the edge accepted `REL`
in `HOLD`; `FAULT = 0` either way; an accepted `FAIL` leaves none visible. -/
def Obligations.DigestOnlyOnCompleteSuccess : Prop :=
  (∀ s t : State, s.Inv → step s = .next t → resultValid t = true →
    t.fault = 0#6 ∧ t.acc = s.acc ∧
    ((resultValid s = true ∧ nextIssue s = .quiet) ∨ (s.phase = .hold ∧ runs s .rel))) ∧
  (∀ s t : State, step s = .next t →
    (runs s .failSrcUnavail ∨ runs s .failReadFail ∨ runs s .failReleaseFail) → accepts s.phase →
    digest? t = none)

/-! ## Outputs -/

/-- R90, and R86 (whose last sentence is the spec's own inference, marked derived there): `cmd_ready` falls exactly in the step that executes `EOS` and rises, without a reset, exactly in the step that
executes `FIN`; `result_valid` rises exactly on `REL` in `HOLD` and falls only on `INIT`, a fault or reset; while it stays 1
`ACC` does not change. -/
def Obligations.ReadyAndValidMoveAsStated : Prop :=
  ∀ s t : State, s.phase.reserved = false → step s = .next t →
    ((cmdReady s = true ∧ cmdReady t = false) ↔ (runs s .eos ∧ s.phase = .consuming)) ∧
    (s.drive.rst = false → ((cmdReady s = false ∧ cmdReady t = true) ↔ runs s .fin)) ∧
    ((resultValid s = false ∧ resultValid t = true) ↔ (runs s .rel ∧ s.phase = .hold)) ∧
    (resultValid s = true → resultValid t = false →
      s.drive.rst = true ∨ (∃ tag, runs s (.init tag)) ∨ t.phase = .failed) ∧
    (resultValid s = true → resultValid t = true → t.acc = s.acc)

/-- R87: `DecStr`: one to ten ASCII digits, no leading zero, whose value is the unsigned number; and its recursion. -/
def Obligations.DecStrIsUnsignedDecimal : Prop :=
  ∀ v : Word,
    (1 ≤ (decStr v).length ∧ (decStr v).length ≤ 10) ∧
    (∀ c ∈ decStr v, 0x30 ≤ c.toNat ∧ c.toNat ≤ 0x39) ∧
    (decStr v).foldl (fun n c => 10 * n + (c.toNat - 0x30)) 0 = v.toNat ∧
    ((decStr v).head? = some 0x30#8 → v = 0#32) ∧
    (v.toNat < 10 → decStr v = [0x30#8 + v.setWidth 8]) ∧
    (10 ≤ v.toNat → decStr v = decStr (v / 10#32) ++ [0x30#8 + (v % 10#32).setWidth 8])

/-- R85, R88: the result and decimal ports in `DONE`, byte by byte, the first character in the top byte, zero filler after
the text; all zero in every other phase, where the digest has no value. -/
def Obligations.PortsCarryTheDigestInDone : Prop :=
  ∀ s : State,
    (s.phase = .done →
      resultPort s = s.acc ∧ (decLenPort s).toNat = (decStr s.acc).length ∧
      ∀ k, k < 10 → (decStrPort s).extractLsb' (72 - 8 * k) 8 = (decStr s.acc).getD k 0x00#8) ∧
    (s.phase ≠ .done →
      resultPort s = 0#32 ∧ decLenPort s = 0#4 ∧ decStrPort s = 0#80 ∧ digest? s = none)

/-- R89: the fields of the status port, with the phase codes of R16. -/
def Obligations.StatusShowsTheControlRegisters : Prop :=
  ∀ s : State,
    (status s).extractLsb' 0 3 = s.phase.code ∧ (status s).extractLsb' 3 6 = s.fault ∧
    (status s).extractLsb' 9 3 = s.primary ∧ (status s).extractLsb' 12 1 = BitVec.ofBool s.relSeen ∧
    (status s).extractLsb' 13 8 = s.tag ∧
    [Phase.idle, .consuming, .folding, .hold, .done, .failed].map Phase.code = [0#3, 1#3, 2#3, 3#3, 4#3, 5#3]

/-! ## Instances -/

/-- R107 (the commuting is the spec's own inference, marked derived there; the list of cores is the model's choice, log 13): a step of one core leaves every other as it was, and the steps of different cores commute. -/
def Obligations.InstancesAreIndependent : Prop :=
  (∀ (sys sys' : System) (k j : Nat), System.stepAt k sys = .next sys' → j ≠ k → sys'[j]? = sys[j]?) ∧
  (∀ (sys a b : System) (k j : Nat), j ≠ k → System.stepAt k sys = .next a → System.stepAt j a = .next b →
    ∃ c, System.stepAt j sys = .next c ∧ System.stepAt k c = .next b)
end

