-- ==== Sys2Proof/Laws/Decode.lean ====
section
/-! SUPPORT. What the decoder can answer. -/

namespace Sys2Proof

/-- A word the host port decodes is a host command's. -/
theorem decode_port {w : CmdWord} {i : Instr} (h : decode w = .ok i) : i.port = .host := by
  unfold decode isMicroOp at h
  unfold decodeOp noOperand decodeCause at h
  repeat' split at h
  all_goals simp_all
  all_goals subst h; rfl

/-- The micro-operations' words on the internal operation word. -/
theorem decodeOp_fold : decodeOp 0x800#12 = .ok .fold := by decide
theorem decodeOp_fin : decodeOp 0x900#12 = .ok .fin := by decide

/-- The field slices of a word put together from them. -/
@[simp] theorem opField_append (op : BitVec 4) (arg : Byte) : opField (op ++ arg) = op := by
  ext k hk
  have h := BitVec.getLsbD_append (x := op) (y := arg) (i := 8 + k)
  simpa [opField, hk, ← BitVec.getLsbD_eq_getElem] using h

@[simp] theorem argField_append (op : BitVec 4) (arg : Byte) : argField (op ++ arg) = arg := by
  ext k hk
  have h := BitVec.getLsbD_append (x := op) (y := arg) (i := k)
  simpa [argField, hk, ← BitVec.getLsbD_eq_getElem] using h

end Sys2Proof
end

