-- ==== Sys2Proof/Laws/Digest.lean ====
section
/-! SUPPORT. The bounds of the two fold recursions are never met, and a run is its first edge and the rest. -/

namespace Sys2Proof.Machine

theorem shiftRight_eight_lt {n : Nat} (h : n ≠ 0) : n >>> 8 < n := by
  rw [Nat.shiftRight_eq_div_pow]; omega

/-- Any bound of at least the count gives the same number of steps. -/
theorem foldStepsFrom_bound {k m n : Nat} (hk : n ≤ k) (hm : n ≤ m) : foldStepsFrom k n = foldStepsFrom m n := by
  induction k generalizing m n with
  | zero => cases m <;> simp_all [foldStepsFrom]
  | succ k ih =>
    by_cases h : n = 0
    · cases m <;> simp [foldStepsFrom, h]
    · cases m with
      | zero => omega
      | succ m =>
        have := shiftRight_eight_lt h
        simp only [foldStepsFrom, h, if_false]
        rw [ih (m := m) (n := n >>> 8) (by omega) (by omega)]

/-- Any bound of at least the count gives the same fold. -/
theorem foldLenFrom_bound {k m n : Nat} (a : Word) (hk : n ≤ k) (hm : n ≤ m) :
    foldLenFrom k a n = foldLenFrom m a n := by
  induction k generalizing m n a with
  | zero => cases m <;> simp_all [foldLenFrom]
  | succ k ih =>
    by_cases h : n = 0
    · cases m <;> simp [foldLenFrom, h]
    · cases m with
      | zero => omega
      | succ m =>
        have := shiftRight_eight_lt h
        simp only [foldLenFrom, h, if_false]
        rw [ih (m := m) (n := n >>> 8) _ (by omega) (by omega)]

@[simp] theorem foldLen_zero (a : Word) : foldLen a 0 = a := rfl

/-- One `FOLD` of the fold of a count that is not zero. -/
theorem foldLen_succ {n : Nat} (a : Word) (h : n ≠ 0) :
    foldLen a n = foldLen (upd a (BitVec.ofNat 8 n)) (n >>> 8) := by
  cases n with
  | zero => exact absurd rfl h
  | succ n =>
    have := shiftRight_eight_lt h
    simp only [foldLen, foldLenFrom, h, if_false]
    exact foldLenFrom_bound _ (by omega) (by omega)

/-- One step of the accumulation at its end. -/
theorem accOf_snoc (bs : List Byte) (b : Byte) : accOf (bs ++ [b]) = upd (accOf bs) b := by
  simp [accOf]

@[simp] theorem runFrom_zero (s : State) : runFrom 0 s = .next s := rfl

theorem runFrom_succ (k : Nat) (s : State) :
    runFrom (k + 1) s =
      (match step s with
        | .next t => runFrom k t
        | .fault r => .fault r
        | .refused r => .refused r) := rfl

/-- The runs of the statements are the runs of the host's interface. -/
theorem runFrom_eq_run (k : Nat) (s : State) : runFrom k s = Host.Core.run Sys2Proof.core k s := by
  induction k generalizing s with
  | zero => rfl
  | succ k ih =>
    have e := Host.Core.run.eq_2 Sys2Proof.core s k
    have hs : Sys2Proof.core.step s = step s := rfl
    rw [hs] at e
    rw [runFrom_succ]
    cases h : step s with
    | next t => rw [h] at e; exact (ih t).trans e.symm
    | fault r => rw [h] at e; exact e.symm
    | refused r => rw [h] at e; exact e.symm

/-- The first edge of a run that has one. -/
theorem runFrom_next {k : Nat} {s t : State} (h : step s = .next t) : runFrom (k + 1) s = runFrom k t := by
  rw [runFrom_succ, h]

/-- A run in two parts. -/
theorem runFrom_add {j : Nat} (k : Nat) {s t : State} (h : runFrom j s = .next t) :
    runFrom (j + k) s = runFrom k t := by
  induction j generalizing s with
  | zero => cases h; rw [Nat.zero_add]
  | succ j ih =>
    rw [Nat.succ_add, runFrom_succ]
    rw [runFrom_succ] at h
    split at h
    · exact ih h
    · cases h
    · cases h

end Sys2Proof.Machine
end

