-- ==== Sys2Proof/Laws/State.lean ====
section
/-! SUPPORT. What each shared update leaves in each field of the state, so that no later proof unfolds a record update. -/

namespace Sys2Proof.Machine

/-! ### `raiseFault` -/

@[simp] theorem raiseFault_acc (c : Cause) (cs : List Cause) (s : State) :
    (raiseFault c cs s).acc = s.acc := rfl
@[simp] theorem raiseFault_cnt (c : Cause) (cs : List Cause) (s : State) :
    (raiseFault c cs s).cnt = s.cnt := rfl
@[simp] theorem raiseFault_phase (c : Cause) (cs : List Cause) (s : State) :
    (raiseFault c cs s).phase = .failed := rfl
@[simp] theorem raiseFault_fault (c : Cause) (cs : List Cause) (s : State) :
    (raiseFault c cs s).fault = s.fault ||| causeBits c cs := rfl
@[simp] theorem raiseFault_primary (c : Cause) (cs : List Cause) (s : State) :
    (raiseFault c cs s).primary = if s.primary = 0#3 then BitVec.ofNat 3 (minCode c cs) else s.primary := rfl
@[simp] theorem raiseFault_relSeen (c : Cause) (cs : List Cause) (s : State) :
    (raiseFault c cs s).relSeen = s.relSeen := rfl
@[simp] theorem raiseFault_tag (c : Cause) (cs : List Cause) (s : State) :
    (raiseFault c cs s).tag = s.tag := rfl
@[simp] theorem raiseFault_cfg (c : Cause) (cs : List Cause) (s : State) :
    (raiseFault c cs s).cfg = s.cfg := rfl
@[simp] theorem raiseFault_port (c : Cause) (cs : List Cause) (s : State) :
    (raiseFault c cs s).port = s.port := rfl
@[simp] theorem raiseFault_freeCtr (c : Cause) (cs : List Cause) (s : State) :
    (raiseFault c cs s).freeCtr = s.freeCtr := rfl

/-! ### `startComputation` -/

@[simp] theorem startComputation_acc (g : Byte) (s : State) :
    (startComputation g s).acc = 0#32 := rfl
@[simp] theorem startComputation_cnt (g : Byte) (s : State) :
    (startComputation g s).cnt = 0 := rfl
@[simp] theorem startComputation_phase (g : Byte) (s : State) :
    (startComputation g s).phase = .consuming := rfl
@[simp] theorem startComputation_fault (g : Byte) (s : State) :
    (startComputation g s).fault = 0#6 := rfl
@[simp] theorem startComputation_primary (g : Byte) (s : State) :
    (startComputation g s).primary = 0#3 := rfl
@[simp] theorem startComputation_relSeen (g : Byte) (s : State) :
    (startComputation g s).relSeen = false := rfl
@[simp] theorem startComputation_tag (g : Byte) (s : State) :
    (startComputation g s).tag = g := rfl
@[simp] theorem startComputation_cfg (g : Byte) (s : State) :
    (startComputation g s).cfg = s.cfg := rfl
@[simp] theorem startComputation_port (g : Byte) (s : State) :
    (startComputation g s).port = s.port := rfl
@[simp] theorem startComputation_freeCtr (g : Byte) (s : State) :
    (startComputation g s).freeCtr = s.freeCtr := rfl

/-! ### `resetStep` -/

@[simp] theorem resetStep_acc (s : State) :
    (resetStep s).acc = Config.freeAcc s.cfg.core s.freeCtr := rfl
@[simp] theorem resetStep_cnt (s : State) :
    (resetStep s).cnt = Config.freeCnt s.cfg.core s.freeCtr % 2 ^ s.cfg.cntW := rfl
@[simp] theorem resetStep_phase (s : State) :
    (resetStep s).phase = .idle := rfl
@[simp] theorem resetStep_fault (s : State) :
    (resetStep s).fault = 0#6 := rfl
@[simp] theorem resetStep_primary (s : State) :
    (resetStep s).primary = 0#3 := rfl
@[simp] theorem resetStep_relSeen (s : State) :
    (resetStep s).relSeen = false := rfl
@[simp] theorem resetStep_tag (s : State) :
    (resetStep s).tag = 0#8 := rfl
@[simp] theorem resetStep_cfg (s : State) :
    (resetStep s).cfg = s.cfg := rfl
@[simp] theorem resetStep_port (s : State) :
    (resetStep s).port = s.port := rfl
@[simp] theorem resetStep_freeCtr (s : State) :
    (resetStep s).freeCtr = s.freeCtr + 1 := rfl

/-! ### `tick` -/

@[simp] theorem tick_acc (s : State) :
    (s.tick).acc = s.acc := rfl
@[simp] theorem tick_cnt (s : State) :
    (s.tick).cnt = s.cnt := rfl
@[simp] theorem tick_phase (s : State) :
    (s.tick).phase = s.phase := rfl
@[simp] theorem tick_fault (s : State) :
    (s.tick).fault = s.fault := rfl
@[simp] theorem tick_primary (s : State) :
    (s.tick).primary = s.primary := rfl
@[simp] theorem tick_relSeen (s : State) :
    (s.tick).relSeen = s.relSeen := rfl
@[simp] theorem tick_tag (s : State) :
    (s.tick).tag = s.tag := rfl
@[simp] theorem tick_cfg (s : State) :
    (s.tick).cfg = s.cfg := rfl
@[simp] theorem tick_port (s : State) :
    (s.tick).port = s.port.tail := rfl
@[simp] theorem tick_freeCtr (s : State) :
    (s.tick).freeCtr = s.freeCtr := rfl

/-! ### `reportRelease`, `accumulate`, `failRelease` -/

@[simp] theorem reportRelease_acc (s : State) : (reportRelease s).acc = s.acc := by
  unfold reportRelease; split <;> rfl
@[simp] theorem reportRelease_cnt (s : State) : (reportRelease s).cnt = s.cnt := by
  unfold reportRelease; split <;> rfl
@[simp] theorem reportRelease_phase (s : State) :
    (reportRelease s).phase = if s.phase = .hold then .done else s.phase := by
  unfold reportRelease; split <;> rfl
@[simp] theorem reportRelease_fault (s : State) : (reportRelease s).fault = s.fault := by
  unfold reportRelease; split <;> rfl
@[simp] theorem reportRelease_primary (s : State) : (reportRelease s).primary = s.primary := by
  unfold reportRelease; split <;> rfl
@[simp] theorem reportRelease_relSeen (s : State) : (reportRelease s).relSeen = true := by
  unfold reportRelease; split <;> rfl
@[simp] theorem reportRelease_tag (s : State) : (reportRelease s).tag = s.tag := by
  unfold reportRelease; split <;> rfl
@[simp] theorem reportRelease_cfg (s : State) : (reportRelease s).cfg = s.cfg := by
  unfold reportRelease; split <;> rfl
@[simp] theorem reportRelease_port (s : State) : (reportRelease s).port = s.port := by
  unfold reportRelease; split <;> rfl
@[simp] theorem reportRelease_freeCtr (s : State) : (reportRelease s).freeCtr = s.freeCtr := by
  unfold reportRelease; split <;> rfl

@[simp] theorem accumulate_acc (b : Byte) (s : State) :
    (accumulate b s).acc = if counterFull s then s.acc else upd s.acc b := by
  unfold accumulate; split <;> rfl
@[simp] theorem accumulate_cnt (b : Byte) (s : State) :
    (accumulate b s).cnt = if counterFull s then s.cnt else s.cnt + 1 := by
  unfold accumulate; split <;> rfl
@[simp] theorem accumulate_phase (b : Byte) (s : State) :
    (accumulate b s).phase = if counterFull s then .failed else s.phase := by
  unfold accumulate; split <;> rfl
@[simp] theorem accumulate_fault (b : Byte) (s : State) :
    (accumulate b s).fault = if counterFull s then s.fault ||| 0b100000#6 else s.fault := by
  unfold accumulate; split <;> rfl
@[simp] theorem accumulate_primary (b : Byte) (s : State) :
    (accumulate b s).primary = if counterFull s ∧ s.primary = 0#3 then 6#3 else s.primary := by
  by_cases h : counterFull s = true <;> simp [accumulate, h, minCode, Cause.code]
@[simp] theorem accumulate_relSeen (b : Byte) (s : State) : (accumulate b s).relSeen = s.relSeen := by
  unfold accumulate; split <;> rfl
@[simp] theorem accumulate_tag (b : Byte) (s : State) : (accumulate b s).tag = s.tag := by
  unfold accumulate; split <;> rfl
@[simp] theorem accumulate_cfg (b : Byte) (s : State) : (accumulate b s).cfg = s.cfg := by
  unfold accumulate; split <;> rfl
@[simp] theorem accumulate_port (b : Byte) (s : State) : (accumulate b s).port = s.port := by
  unfold accumulate; split <;> rfl
@[simp] theorem accumulate_freeCtr (b : Byte) (s : State) : (accumulate b s).freeCtr = s.freeCtr := by
  unfold accumulate; split <;> rfl

@[simp] theorem failRelease_acc (s : State) :
    (failRelease s).acc = s.acc := rfl
@[simp] theorem failRelease_cnt (s : State) :
    (failRelease s).cnt = s.cnt := rfl
@[simp] theorem failRelease_phase (s : State) :
    (failRelease s).phase = .failed := rfl
@[simp] theorem failRelease_fault (s : State) :
    (failRelease s).fault = s.fault ||| (if s.relSeen then 0b010100#6 else 0b000100#6) := by
  cases h : s.relSeen <;> simp [failRelease, h, causeBits, Cause.code, Cause.bit]
@[simp] theorem failRelease_primary (s : State) :
    (failRelease s).primary = if s.primary = 0#3 then 3#3 else s.primary := by
  cases h : s.relSeen <;> simp [failRelease, h, minCode, Cause.code]
@[simp] theorem failRelease_relSeen (s : State) :
    (failRelease s).relSeen = true := rfl
@[simp] theorem failRelease_tag (s : State) :
    (failRelease s).tag = s.tag := rfl
@[simp] theorem failRelease_cfg (s : State) :
    (failRelease s).cfg = s.cfg := rfl
@[simp] theorem failRelease_port (s : State) :
    (failRelease s).port = s.port := rfl
@[simp] theorem failRelease_freeCtr (s : State) :
    (failRelease s).freeCtr = s.freeCtr := rfl

/-! ### What one cause sets -/

@[simp] theorem causeBits_one (c : Cause) : causeBits c [] = c.bit := rfl
@[simp] theorem minCode_one (c : Cause) : minCode c [] = c.code := rfl

end Sys2Proof.Machine
end

