-- ==== Sys2Proof/Laws/Ops.lean ====
section
/-! SUPPORT. What each shared operation can answer, said once: the two gates, the legality rows, and each meaning. -/

namespace Sys2Proof.Machine

/-- Everything a gated command can go on to. -/
theorem underVerdict_next {v : Verdict} {e s t : State} (h : underVerdict v e s = .next t) :
    (v = .ok ∧ t = e) ∨ (v = .outOfPhase ∧ t = raiseFault .protocol [] s) ∨ (v = .notReady ∧ t = s) := by
  cases v <;> simp_all [underVerdict]

/-- A gated command never refuses. -/
theorem underVerdict_ne_refused (v : Verdict) (e s : State) (r : Refusal) : underVerdict v e s ≠ .refused r := by
  cases v <;> simp [underVerdict]

/-- Everything a micro-operation can go on to. -/
theorem whenEnabled_next {b : Bool} {e s t : State} (h : whenEnabled b e s = .next t) :
    s.phase.reserved = false ∧ ((b = true ∧ t = e) ∨ (b = false ∧ t = s)) := by
  unfold whenEnabled at h
  cases b <;> split at h <;> simp_all

/-! ### The legality matrix, by its `ok` and its `P` cells -/

theorem legalInit_ok {p : Phase} : legalInit p = .ok ↔ p = .idle ∨ p = .done ∨ p = .failed := by
  cases p <;> decide

theorem legalInit_outOfPhase {p : Phase} : legalInit p = .outOfPhase ↔ p = .consuming ∨ p = .hold := by
  cases p <;> decide

theorem legalStream_ok {p : Phase} : legalStream p = .ok ↔ p = .consuming := by
  cases p <;> decide

theorem legalStream_outOfPhase {p : Phase} :
    legalStream p = .outOfPhase ↔ p = .idle ∨ p = .hold ∨ p = .done ∨ p = .failed := by
  cases p <;> decide

theorem legalRel_ok {r : Bool} {p : Phase} : legalRel r p = .ok ↔ p = .hold ∨ (p = .failed ∧ r = false) := by
  cases p <;> cases r <;> decide

theorem legalRel_outOfPhase {r : Bool} {p : Phase} :
    legalRel r p = .outOfPhase ↔ p = .idle ∨ p = .consuming ∨ p = .done ∨ (p = .failed ∧ r = true) := by
  cases p <;> cases r <;> decide

theorem legalFail_ok {p : Phase} :
    legalFail p = .ok ↔ p = .idle ∨ p = .consuming ∨ p = .hold ∨ p = .done ∨ p = .failed := by
  cases p <;> decide

theorem legalFail_ne_outOfPhase (p : Phase) : legalFail p ≠ .outOfPhase := by
  cases p <;> decide

theorem legal_notReady (p : Phase) (r : Bool) :
    (legalInit p = .notReady ↔ p = .folding) ∧ (legalStream p = .notReady ↔ p = .folding) ∧
    (legalRel r p = .notReady ↔ p = .folding) ∧ (legalFail p = .notReady ↔ p = .folding) := by
  cases p <;> cases r <;> decide

/-! ### The meanings outside `FOLDING` and the reserved phases -/

theorem execInit_next {g : Byte} {s t : State} (hf : s.phase ≠ .folding) (h : execInit g s = .next t) :
    ((s.phase = .idle ∨ s.phase = .done ∨ s.phase = .failed) ∧ t = startComputation g s) ∨
    ((s.phase = .consuming ∨ s.phase = .hold) ∧ t = raiseFault .protocol [] s) := by
  obtain ⟨hv, rfl⟩ | ⟨hv, rfl⟩ | ⟨hv, rfl⟩ := underVerdict_next h
  · exact .inl ⟨legalInit_ok.mp hv, rfl⟩
  · exact .inr ⟨legalInit_outOfPhase.mp hv, rfl⟩
  · exact absurd ((legal_notReady _ false).1.mp hv) hf

theorem execByte_next {b : Byte} {s t : State} (hf : s.phase ≠ .folding) (h : execByte b s = .next t) :
    (s.phase = .consuming ∧ t = accumulate b s) ∨
    ((s.phase = .idle ∨ s.phase = .hold ∨ s.phase = .done ∨ s.phase = .failed) ∧
      t = raiseFault .protocol [] s) := by
  obtain ⟨hv, rfl⟩ | ⟨hv, rfl⟩ | ⟨hv, rfl⟩ := underVerdict_next h
  · exact .inl ⟨legalStream_ok.mp hv, rfl⟩
  · exact .inr ⟨legalStream_outOfPhase.mp hv, rfl⟩
  · exact absurd ((legal_notReady _ false).2.1.mp hv) hf

theorem execEos_next {s t : State} (hf : s.phase ≠ .folding) (h : execEos s = .next t) :
    (s.phase = .consuming ∧ t = { s with phase := .folding }) ∨
    ((s.phase = .idle ∨ s.phase = .hold ∨ s.phase = .done ∨ s.phase = .failed) ∧
      t = raiseFault .protocol [] s) := by
  obtain ⟨hv, rfl⟩ | ⟨hv, rfl⟩ | ⟨hv, rfl⟩ := underVerdict_next h
  · exact .inl ⟨legalStream_ok.mp hv, rfl⟩
  · exact .inr ⟨legalStream_outOfPhase.mp hv, rfl⟩
  · exact absurd ((legal_notReady _ false).2.1.mp hv) hf

theorem execRel_next {s t : State} (hf : s.phase ≠ .folding) (h : execRel s = .next t) :
    ((s.phase = .hold ∨ (s.phase = .failed ∧ s.relSeen = false)) ∧ t = reportRelease s) ∨
    ((s.phase = .idle ∨ s.phase = .consuming ∨ s.phase = .done ∨ (s.phase = .failed ∧ s.relSeen = true)) ∧
      t = raiseFault .protocol [] s) := by
  obtain ⟨hv, rfl⟩ | ⟨hv, rfl⟩ | ⟨hv, rfl⟩ := underVerdict_next h
  · exact .inl ⟨legalRel_ok.mp hv, rfl⟩
  · exact .inr ⟨legalRel_outOfPhase.mp hv, rfl⟩
  · exact absurd ((legal_notReady _ _).2.2.1.mp hv) hf

/-- The three `FAIL` commands, by what their effect is. -/
theorem failed_next {e s t : State} (hf : s.phase ≠ .folding) (h : underVerdict (legalFail s.phase) e s = .next t) :
    t = e := by
  obtain ⟨_, rfl⟩ | ⟨hv, rfl⟩ | ⟨hv, rfl⟩ := underVerdict_next h
  · rfl
  · exact absurd hv (legalFail_ne_outOfPhase _)
  · exact absurd ((legal_notReady _ false).2.2.2.mp hv) hf

theorem execFold_next {s t : State} (hp : s.phase = .folding) (hc : s.cnt ≠ 0) (h : execFold s = .next t) :
    t = { s with acc := upd s.acc (foldByte s), cnt := shiftedCount s } := by
  have := (whenEnabled_next h).2
  simpa [foldEnabled, hp, hc] using this

theorem execFin_next {s t : State} (hp : s.phase = .folding) (hc : s.cnt = 0) (h : execFin s = .next t) :
    t = { s with acc := ~~~s.acc, phase := .hold } := by
  have := (whenEnabled_next h).2
  simpa [finEnabled, hp, hc] using this

end Sys2Proof.Machine
end

