-- ==== Sys2Proof/Laws/PerInstr.lean ====
section
/-! SUPPORT. Statements about every instruction as syntax, one lemma per constructor. -/

/-- The word of an instruction has the `op` of its row (30_encoding.md R48), and the host port takes the word exactly when the
row's port is the host's. -/
def Sys2Proof.Laws.OpFieldOfWord.Statement (i : Sys2Proof.Instr) : Prop :=
  Sys2Proof.opField (Sys2Proof.encode i) =
    (match i with
      | .init _ => 0x1#4
      | .byte _ => 0x2#4
      | .eos => 0x3#4
      | .rel => 0x4#4
      | .failSrcUnavail => 0x5#4
      | .failReadFail => 0x5#4
      | .failReleaseFail => 0x5#4
      | .fold => 0x8#4
      | .fin => 0x9#4) ∧
  (Sys2Proof.isMicroOp (Sys2Proof.encode i) = true ↔ i.port = .internal)

namespace Sys2Proof.Laws.OpFieldOfWord

theorem init (tag : Byte) : Statement (.init tag) := by
  refine ⟨opField_append _ _, ?_⟩
  simp [isMicroOp, encode, Instr.port]

theorem byte (b : Byte) : Statement (.byte b) := by
  refine ⟨opField_append _ _, ?_⟩
  simp [isMicroOp, encode, Instr.port]

theorem eos : Statement .eos := ⟨by decide, by decide⟩
theorem rel : Statement .rel := ⟨by decide, by decide⟩
theorem failSrcUnavail : Statement .failSrcUnavail := ⟨by decide, by decide⟩
theorem failReadFail : Statement .failReadFail := ⟨by decide, by decide⟩
theorem failReleaseFail : Statement .failReleaseFail := ⟨by decide, by decide⟩
theorem fold : Statement .fold := ⟨by decide, by decide⟩
theorem fin : Statement .fin := ⟨by decide, by decide⟩

end Sys2Proof.Laws.OpFieldOfWord
end

