-- ==== Sys2Proof/Laws/Step.lean ====
section
/-! SUPPORT. What one clock edge can do, said once (`step_effect`): every invariant and every frame follows from the cases. -/

namespace Sys2Proof.Machine

@[simp] theorem sequencerIssue_eq (s : State) :
    sequencerIssue s = if s.cnt = 0 then .run .fin else .run .fold := by
  by_cases h : s.cnt = 0
  · simp [sequencerIssue, sequencerWord, h, decodeOp_fin]
  · simp [sequencerIssue, sequencerWord, h, decodeOp_fold]

/-- The drive of the coming edge and the port do not change with the registers. -/
theorem drive_eq (s : State) : s.drive = s.port.headD HostDrive.none := rfl

theorem cmdReady_false {s : State} : cmdReady s = false ↔ s.phase = .folding := by simp [cmdReady]

theorem cmdReady_true {s : State} : cmdReady s = true ↔ s.phase ≠ .folding := by simp [cmdReady]

/-- When an edge runs an instruction: the host's, in a phase that accepts, or the sequencer's, in `FOLDING`. -/
theorem nextIssue_run {s : State} {i : Instr} (h : nextIssue s = .run i) :
    s.drive.rst = false ∧
    ((s.phase ≠ .folding ∧ s.phase.reserved = false ∧ s.drive.cmdValid = true ∧ decode s.drive.cmd = .ok i ∧
        i.port = .host) ∨
     (s.phase = .folding ∧ s.cnt = 0 ∧ i = .fin) ∨ (s.phase = .folding ∧ s.cnt ≠ 0 ∧ i = .fold)) := by
  unfold nextIssue at h
  split at h
  · cases h
  rename_i hr
  refine ⟨by simpa using hr, ?_⟩
  split at h
  · rename_i hc
    split at h
    · rename_i hv
      split at h
      · cases h
      · rename_i hres
        unfold acceptIssue at h
        split at h
        · rename_i j hj
          cases h
          exact .inl ⟨cmdReady_true.mp hc, by simpa using hres, hv, hj, decode_port hj⟩
        · cases h
    · cases h
  · rename_i hc
    have hp : s.phase = .folding := cmdReady_false.mp (by simpa using hc)
    rw [sequencerIssue_eq] at h
    split at h <;> cases h
    · exact .inr (.inl ⟨hp, ‹_›, rfl⟩)
    · exact .inr (.inr ⟨hp, ‹_›, rfl⟩)

theorem nextIssue_reset {s : State} : nextIssue s = .reset ↔ s.drive.rst = true := by
  constructor
  · intro h
    unfold nextIssue acceptIssue at h
    rw [sequencerIssue_eq] at h
    repeat' split at h
    all_goals simp_all
  · intro h
    simp [nextIssue, h]

theorem nextIssue_quiet {s : State} (h : nextIssue s = .quiet) :
    s.drive.rst = false ∧ s.phase ≠ .folding ∧ s.drive.cmdValid = false := by
  unfold nextIssue acceptIssue at h
  rw [sequencerIssue_eq] at h
  repeat' split at h
  all_goals simp_all [cmdReady]

theorem nextIssue_illegal {s : State} (h : nextIssue s = .illegal) :
    s.drive.rst = false ∧ s.phase ≠ .folding ∧ s.phase.reserved = false ∧ s.drive.cmdValid = true ∧
      ∃ why, decode s.drive.cmd = .error why := by
  unfold nextIssue acceptIssue at h
  rw [sequencerIssue_eq] at h
  repeat' split at h
  all_goals simp_all [cmdReady]

theorem nextIssue_stuck {s : State} (h : nextIssue s = .stuck) :
    s.drive.rst = false ∧ s.phase.reserved = true ∧ s.drive.cmdValid = true := by
  unfold nextIssue acceptIssue at h
  rw [sequencerIssue_eq] at h
  repeat' split at h
  all_goals simp_all [cmdReady]

/-- Everything one edge can lead to, each case with the condition under which it happens. -/
inductive StepEffect (s : State) : State → Prop where
  | reset (hr : s.drive.rst = true) : StepEffect s (resetStep s.tick)
  | quiet (hq : nextIssue s = .quiet) : StepEffect s s.tick
  | illegal (hi : nextIssue s = .illegal) : StepEffect s (raiseFault .illegalCmd [] s.tick)
  | init (g : Byte) (hi : nextIssue s = .run (.init g)) (hp : s.phase = .idle ∨ s.phase = .done ∨ s.phase = .failed) :
      StepEffect s (startComputation g s.tick)
  | byte (b : Byte) (hi : nextIssue s = .run (.byte b)) (hp : s.phase = .consuming) :
      StepEffect s (accumulate b s.tick)
  | eos (hi : nextIssue s = .run .eos) (hp : s.phase = .consuming) :
      StepEffect s { s.tick with phase := .folding }
  | rel (hi : nextIssue s = .run .rel) (hp : s.phase = .hold ∨ (s.phase = .failed ∧ s.relSeen = false)) :
      StepEffect s (reportRelease s.tick)
  | failSrcUnavail (hi : nextIssue s = .run .failSrcUnavail) : StepEffect s (failSource .srcUnavail s.tick)
  | failReadFail (hi : nextIssue s = .run .failReadFail) : StepEffect s (failSource .readFail s.tick)
  | failReleaseFail (hi : nextIssue s = .run .failReleaseFail) : StepEffect s (failRelease s.tick)
  | fold (hi : nextIssue s = .run .fold) (hp : s.phase = .folding) (hc : s.cnt ≠ 0) :
      StepEffect s { s.tick with acc := upd s.acc (foldByte s), cnt := shiftedCount s }
  | fin (hi : nextIssue s = .run .fin) (hp : s.phase = .folding) (hc : s.cnt = 0) :
      StepEffect s { s.tick with acc := ~~~s.acc, phase := .hold }
  | initOutOfPhase (g : Byte) (hi : nextIssue s = .run (.init g)) (hp : s.phase = .consuming ∨ s.phase = .hold) :
      StepEffect s (raiseFault .protocol [] s.tick)
  | byteOutOfPhase (b : Byte) (hi : nextIssue s = .run (.byte b))
      (hp : s.phase = .idle ∨ s.phase = .hold ∨ s.phase = .done ∨ s.phase = .failed) :
      StepEffect s (raiseFault .protocol [] s.tick)
  | eosOutOfPhase (hi : nextIssue s = .run .eos)
      (hp : s.phase = .idle ∨ s.phase = .hold ∨ s.phase = .done ∨ s.phase = .failed) :
      StepEffect s (raiseFault .protocol [] s.tick)
  | relOutOfPhase (hi : nextIssue s = .run .rel)
      (hp : s.phase = .idle ∨ s.phase = .consuming ∨ s.phase = .done ∨ (s.phase = .failed ∧ s.relSeen = true)) :
      StepEffect s (raiseFault .protocol [] s.tick)

/-- An edge that runs a host command does so outside `FOLDING`. -/
theorem run_host_phase {s : State} {i : Instr} (h : nextIssue s = .run i) (hi : i.port = .host) :
    s.phase ≠ .folding := by
  obtain ⟨-, ⟨hp, -⟩ | ⟨-, -, rfl⟩ | ⟨-, -, rfl⟩⟩ := nextIssue_run h
  · exact hp
  · cases hi
  · cases hi

theorem run_host_tick {s : State} {i : Instr} (h : nextIssue s = .run i) (hi : i.port = .host) :
    s.tick.phase ≠ .folding := by simpa using run_host_phase h hi

/-- An edge that runs a micro-operation does so where it is enabled. -/
theorem run_fold_phase {s : State} (h : nextIssue s = .run .fold) : s.phase = .folding ∧ s.cnt ≠ 0 := by
  obtain ⟨-, ⟨-, -, -, -, hp⟩ | ⟨-, -, hp⟩ | ⟨hp, hc, -⟩⟩ := nextIssue_run h
  · cases hp
  · cases hp
  · exact ⟨hp, hc⟩

theorem run_fin_phase {s : State} (h : nextIssue s = .run .fin) : s.phase = .folding ∧ s.cnt = 0 := by
  obtain ⟨-, ⟨-, -, -, -, hp⟩ | ⟨hp, hc, -⟩ | ⟨-, -, hp⟩⟩ := nextIssue_run h
  · cases hp
  · exact ⟨hp, hc⟩
  · cases hp

theorem step_effect {s t : State} (h : step s = .next t) : StepEffect s t := by
  unfold step at h
  split at h
  · rename_i hi; cases h; exact .reset (nextIssue_reset.mp hi)
  · rename_i hi; cases h; exact .quiet hi
  · rename_i i hi
    cases i with
    | init g =>
      obtain ⟨hp, rfl⟩ | ⟨hp, rfl⟩ := execInit_next (s := s.tick) (run_host_tick hi rfl) h
      · exact .init g hi hp
      · exact .initOutOfPhase g hi hp
    | byte b =>
      obtain ⟨hp, rfl⟩ | ⟨hp, rfl⟩ := execByte_next (s := s.tick) (run_host_tick hi rfl) h
      · exact .byte b hi hp
      · exact .byteOutOfPhase b hi hp
    | eos =>
      obtain ⟨hp, rfl⟩ | ⟨hp, rfl⟩ := execEos_next (s := s.tick) (run_host_tick hi rfl) h
      · exact .eos hi hp
      · exact .eosOutOfPhase hi hp
    | rel =>
      obtain ⟨hp, rfl⟩ | ⟨hp, rfl⟩ := execRel_next (s := s.tick) (run_host_tick hi rfl) h
      · exact .rel hi hp
      · exact .relOutOfPhase hi hp
    | failSrcUnavail => rw [failed_next (s := s.tick) (run_host_tick hi rfl) h]; exact .failSrcUnavail hi
    | failReadFail => rw [failed_next (s := s.tick) (run_host_tick hi rfl) h]; exact .failReadFail hi
    | failReleaseFail => rw [failed_next (s := s.tick) (run_host_tick hi rfl) h]; exact .failReleaseFail hi
    | fold =>
      obtain ⟨hp, hc⟩ := run_fold_phase hi
      rw [execFold_next (s := s.tick) hp hc h]; exact .fold hi hp hc
    | fin =>
      obtain ⟨hp, hc⟩ := run_fin_phase hi
      rw [execFin_next (s := s.tick) hp hc h]; exact .fin hi hp hc
  · rename_i hi; cases h; exact .illegal hi
  · cases h

end Sys2Proof.Machine
end

