-- ==== Sys2Proof/Laws/Run.lean ====
section
/-! SUPPORT. The small lemmas of a run and its end (70_reset_and_hazards.md R119): what an edge with a command and an edge
without one do to the port, and when the host has no further command for the source. -/

namespace Sys2Proof.Machine

theorem startable_iff {p : Phase} : p.startable = true ↔ p = .idle ∨ p = .done ∨ p = .failed := by
  cases p <;> decide

/-- A command presented where the port accepts is the one the edge runs. -/
theorem nextIssue_present {s : State} {i : Instr} {rest : List HostDrive} (hf : s.phase ≠ .folding)
    (hr : s.phase.reserved = false) (hd : decode (encode i) = .ok i)
    (h : s.port = HostDrive.present (encode i) :: rest) : nextIssue s = .run i := by
  simp [nextIssue, State.drive, h, HostDrive.present, cmdReady, hf, hr, acceptIssue, hd]

/-- A silent edge outside `FOLDING` only moves the port. -/
theorem step_silent {s : State} (hf : s.phase ≠ .folding) (h : s.drive.silent = true) : step s = .next s.tick := by
  simp only [HostDrive.silent, Bool.and_eq_true, Bool.not_eq_true'] at h
  simp [step, nextIssue, cmdReady, hf, h]

@[simp] theorem issued?_run {s : State} {i : Instr} (h : nextIssue s = .run i) : s.issued? = some i := by
  simp [State.issued?, h]

/-- Silence and then the later sources' drives: no further command for this source. -/
theorem hostDone_append {later pause : List HostDrive} {s : State} (h : s.port = pause ++ later)
    (hp : ∀ d ∈ pause, d.silent = true) : s.hostDone later = true := by
  simpa [State.hostDone, h] using hp

/-- A state that ends a run is in `DONE` or in `FAILED`, never in another phase. -/
theorem phase_of_ended {later : List HostDrive} {s : State} (h : s.ended later = true) :
    s.phase = .done ∨ s.phase = .failed := by
  simp only [State.ended, State.endedGood, State.endedFailed, Bool.or_eq_true, Bool.and_eq_true,
    decide_eq_true_eq] at h
  exact h.imp And.left And.left

end Sys2Proof.Machine
end

