-- ==== Sys2Proof/Tests/Slice0.lean ====
section
/-! SUPPORT. The model's own tests: the WellFormed smoke, words written out from the spec's encodings, and single steps
whose expected results are the vectors of 95_test_vectors.md or the examples of the rules. -/

namespace Sys2Proof.Tests

open Sys2Proof.Machine Sys2Proof.Claims

/-- The next state of an outcome. -/
def after (o : Host.Outcome State Fault Refusal) : Option State :=
  match o with
  | .next t => some t
  | .fault _ => none
  | .refused _ => none

/-- A state with a phase, an accumulator and a count, everything else as after reset. -/
def at_ (p : Phase) (acc : Word) (cnt : Nat) : State :=
  { State.reset with phase := p, acc := acc, cnt := cnt }

/-- `s` with the host presenting one word on the coming edge. -/
def presented (w : CmdWord) (s : State) : State := { s with port := [HostDrive.present w] }

/-! WellFormed: for each check a term it refuses. -/

theorem test_wf_fold_not_on_host_port : Instr.wf .host .fold = false := by decide
theorem test_wf_fin_not_on_host_port : Instr.wf .host .fin = false := by decide
theorem test_wf_init_not_internal : Instr.wf .internal (.init 0#8) = false := by decide
theorem test_wf_config_zero_width : Config.wf ⟨0, 0⟩ = false := by decide
theorem test_wf_source_tag_range : Source.wf (.init 256) = false := by decide
theorem test_wf_source_byte_range : Source.wf (.byte 256) = false := by decide
theorem test_wf_source_cause_zero : Source.wf (.fail 0) = false := by decide
theorem test_wf_source_cause_four : Source.wf (.fail 4) = false := by decide
theorem test_wf_source_data_empty : Source.wf (.data []) = false := by decide
theorem test_wf_source_data_range : Source.wf (.data [1, 256]) = false := by decide
theorem test_wf_source_ascii_seven_bits : Source.wf (.ascii [0x61, 0x80]) = false := by decide
theorem test_wf_source_compute_tag : Source.wf (.compute 300 []) = false := by decide
theorem test_wf_source_compute_text : Source.wf (.compute 0 [128]) = false := by decide

/-! Decoding: words written from 30_encoding.md R48 and R54. -/

theorem test_decode_init : decode 0b000100000111#12 = .ok (.init 0x07#8) := by decide
theorem test_decode_byte : decode 0b001001100001#12 = .ok (.byte 0x61#8) := by decide
theorem test_decode_eos : decode 0b001100000000#12 = .ok .eos := by decide
theorem test_decode_rel : decode 0b010000000000#12 = .ok .rel := by decide
theorem test_decode_fail_src_unavail : decode 0b010100000001#12 = .ok .failSrcUnavail := by decide
theorem test_decode_fail_read_fail : decode 0b010100000010#12 = .ok .failReadFail := by decide
theorem test_decode_fail_release_fail : decode 0b010100000011#12 = .ok .failReleaseFail := by decide
theorem test_decode_fold_internal : decodeOp 0b100000000000#12 = .ok .fold := by decide
theorem test_decode_fin_internal : decodeOp 0b100100000000#12 = .ok .fin := by decide
/-- X1 to X9 of 95_test_vectors.md. -/
theorem test_decode_illegal_words :
    [0x000#12, 0xFFF#12, 0x600#12].map decode = List.replicate 3 (.error .reservedOp) ∧
    [0x800#12, 0x900#12, 0x801#12].map decode = List.replicate 3 (.error .microOpOnHostPort) ∧
    [0x500#12, 0x504#12].map decode = List.replicate 2 (.error .badCause) ∧
    [0x401#12, 0x3FF#12].map decode = List.replicate 2 (.error .argNotZero) := by decide
theorem test_decode_table_word_init : decodeTableWord 16 0x107 = some (.init 7#8) := by decide
theorem test_decode_table_word_fold : decodeTableWord 16 0x800 = some .fold := by decide
theorem test_decode_table_word_too_wide : decodeTableWord 16 0x1300 = none := by decide

/-! The table and the update: 10_state.md R26 and U1 to U13 of 95_test_vectors.md. -/

theorem test_rom_length : romTable.length = 256 := by decide +kernel
theorem test_rom_ends : [rom 0#8, rom 1#8, rom 0x2F#8, rom 0xA8#8, rom 255#8] =
    [0#32, 0x04C11DB7#32, 0xA06C0B5D#32, 0xD727BBB6#32, 0xB1F740B4#32] := by decide
theorem test_upd_general : upd 0x12345678#32 0x9A#8 = 0x7B527556#32 := by decide
theorem test_upd_second_byte : upd 0xA864DB20#32 0x62#8 = 0x16DB664F#32 := by decide
theorem test_upd_serial_general : updSerial 0xDEADBEEF#32 0x00#8 = 0x80AB04E3#32 := by decide

/-! One step each. -/

/-- R67 example: from reset, the word `0x107`. -/
theorem test_init_from_reset :
    after (step (presented 0x107#12 State.reset)) =
      some { at_ .consuming 0#32 0 with tag := 0x07#8 } := by decide
/-- X14: a second `INIT` faults, `status = 0x000A85`. -/
theorem test_init_in_consuming :
    (after (step (presented 0x100#12 (at_ .consuming 0#32 0)))).map status = some 0x000A85#21 := by decide
/-- R68 example. -/
theorem test_byte_second :
    after (step (presented 0x262#12 (at_ .consuming 0xA864DB20#32 1))) =
      some (at_ .consuming 0x16DB664F#32 2) := by decide
/-- O1: `CNT_W = 2`, `status = 0x000D05`, `ACC` and `CNT` unchanged. -/
theorem test_byte_overflow :
    (after (step (presented 0x204#12 { at_ .consuming 0xAC691451#32 3 with cfg := ⟨2, 0⟩ }))).map
      (fun t => (status t, t.acc, t.cnt)) = some (0x000D05#21, 0xAC691451#32, 3) := by decide
/-- R69 example. -/
theorem test_eos :
    after (step (presented 0x300#12 (at_ .consuming 0x2C17398C#32 3))) =
      some (at_ .folding 0x2C17398C#32 3) := by decide
/-- R74 example; the held word `0x400` is not accepted. -/
theorem test_fold :
    after (step (presented 0x400#12 (at_ .folding 0x2C17398C#32 3))) =
      some (at_ .folding 0xB755875D#32 0) := by decide
/-- V5: the count 256 folds `0x00` first. -/
theorem test_fold_low_byte_first :
    after (step (at_ .folding 0xAC148725#32 256)) = some (at_ .folding 0xD0A4E86A#32 1) := by decide
/-- R76 example. -/
theorem test_fin :
    after (step (at_ .folding 0xB755875D#32 0)) = some (at_ .hold 0x48AA78A2#32 0) := by decide
/-- R80 example. -/
theorem test_rel_in_hold :
    (after (step (presented 0x400#12 (at_ .hold 0x48AA78A2#32 0)))).map
      (fun t => (t.phase, t.relSeen, resultPort t, decLenPort t, decStrPort t)) =
      some (.done, true, 0x48AA78A2#32, 10#4, 0x31323139313331353534#80) := by decide
/-- X13: `REL` in `IDLE` faults and does not write `REL_SEEN`. -/
theorem test_rel_in_idle :
    (after (step (presented 0x400#12 State.reset))).map status = some 0x000A85#21 := by decide
/-- V21. -/
theorem test_fail_src_unavail :
    (after (step (presented 0x501#12 State.reset))).map status = some 0x00020D#21 := by decide
/-- R82 example. -/
theorem test_fail_read_fail :
    (after (step (presented 0x502#12 (at_ .consuming 0#32 5)))).map
      (fun t => (t.phase, t.fault, t.primary, t.relSeen, t.cnt)) =
      some (.failed, 0b000010#6, 2#3, false, 5) := by decide
/-- V25: in `DONE` the late release failure raises two causes, `status = 0x0016A5`. -/
theorem test_fail_release_fail_in_done :
    (after (step (presented 0x503#12 { at_ .done 0xFFFFFFFF#32 0 with relSeen := true }))).map status =
      some 0x0016A5#21 := by decide
/-- P3: from `HOLD`, `status = 0x005625`. -/
theorem test_fail_release_fail_in_hold :
    (after (step (presented 0x503#12 { at_ .hold 0x48C279FE#32 0 with tag := 2#8 }))).map status =
      some 0x005625#21 := by decide
/-- X9: malformed and out of phase gives `ILLEGAL_CMD` only. -/
theorem test_illegal_before_protocol :
    (after (step (presented 0x3FF#12 State.reset))).map status = some 0x000845#21 := by decide
/-- Z3: a `BYTE` presented under reset is not accepted. -/
theorem test_reset_beats_command :
    (after (step { at_ .consuming 0#32 0 with port := [⟨true, true, 0x261#12⟩] })).map
      (fun t => (t.phase, status t, t.port)) = some (.idle, 0#21, []) := by decide
/-- R8: no command, no change. -/
theorem test_quiet : after (step State.reset) = some State.reset := by decide

/-! The host's probes: every row runs as the first instruction after reset. -/

theorem test_fetch_byte : after (step (State.reset.withFetchWord 16 0x261)) =
    after (exec (.byte 0x61#8) State.reset) := by decide
theorem test_fetch_fold : (after (step (State.reset.withFetchWord 16 0x800))).map
    (fun t => (t.phase, t.acc, t.cnt)) = some (.folding, 0x04C11DB7#32, 0) := by decide
theorem test_fetch_fin : (after (step (State.reset.withFetchWord 16 0x900))).map
    (fun t => (t.phase, t.acc)) = some (.hold, 0xFFFFFFFF#32) := by decide

/-! Digest and text: V1, V4, V17 and S1, S6 of 95_test_vectors.md. -/

theorem test_cksum_empty : cksum [] = 0xFFFFFFFF#32 := by decide
theorem test_cksum_abc : cksum [0x61#8, 0x62#8, 0x63#8] = 0x48AA78A2#32 := by decide
theorem test_cksum_zero_digest : cksum [0x9D#8, 0x52#8, 0x7F#8, 0xD9#8] = 0#32 := by decide
theorem test_fold_steps : [0, 1, 255, 256, 65535, 65536].map foldSteps = [0, 1, 1, 2, 2, 3] := by decide
theorem test_dec_str_zero : packText (decStr 0#32) = 0x30000000000000000000#80 := by decide
theorem test_dec_str_top_bit : packText (decStr 0x80000000#32) = 0x32313437343833363438#80 := by decide

/-! The assembler: 30_encoding.md R54, R55. -/

theorem test_parse_init : parseLine "INIT 0x07 # start".toList = some [.init 7] := by decide
theorem test_parse_fail_name : parseLine "FAIL READ_FAIL".toList = some [.fail 2] := by decide
theorem test_parse_data : parseLine "DATA 1, 0x2, 255".toList = some [.data [1, 2, 255]] := by decide
theorem test_parse_compute : parseLine "COMPUTE 1, \"a#c\"".toList = some [.compute 1 [97, 35, 99]] := by decide
theorem test_assemble_compute : assemble [.compute 1 [97, 98, 99]] =
    some [0x101#12, 0x261#12, 0x262#12, 0x263#12, 0x300#12, 0x400#12] := by decide
theorem test_assemble_range : assemble [.byte 256] = none := by decide

/-- Two cores: an edge of the second leaves the first as it was. -/
theorem test_system_second_core :
    (match System.stepAt 1 [State.reset, presented 0x501#12 State.reset] with
      | .next sys => some (sys.map status)
      | .fault _ => none
      | .refused _ => none) = some [0#21, 0x00020D#21] := by decide

/-- R107: all leave reset in `IDLE`; the cores of a system have numbers of their own. -/
theorem test_system_reset :
    (System.reset 2).map (fun s => (s.phase, status s)) = [(.idle, 0#21), (.idle, 0#21)] ∧
    (System.reset 2).map (fun s => s.cfg.core) = [0, 1] := by decide

/-- `s` with a fault already recorded. -/
def faultedAt (p : Phase) : State := { at_ p 0#32 5 with fault := 1#6, primary := 1#3 }

/-! Runs and their ends: P2, P5, P6 of 95_test_vectors.md. -/

/-- What the host drives for the second source of P2. -/
def secondSource : List HostDrive := presentAll [.init 8#8, .eos, .rel]

/-- P2: after `FAIL READ_FAIL`, `FAIL RELEASE_FAIL` is still this source's; after it the run has ended failed, though the
next source's `INIT` follows. -/
theorem test_first_run_of_P2_ends :
    (State.endedFailed secondSource
      { faultedAt .failed with port := HostDrive.present 0x503#12 :: secondSource } = false) ∧
    State.endedFailed secondSource { faultedAt .failed with port := HostDrive.none :: secondSource } = true ∧
    beginsSource (HostDrive.none :: secondSource) = true := by decide

/-- P6: the late `FAIL RELEASE_FAIL` is this source's, so the run has not ended good in `DONE`; had the host no further
command for the source, it would have. -/
theorem test_late_failure_of_P6_withdraws :
    State.endedGood [] { at_ .done 0xFFFFFFFF#32 0 with port := [HostDrive.present 0x503#12] } = false ∧
    State.endedGood [HostDrive.present 0x503#12]
      { at_ .done 0xFFFFFFFF#32 0 with port := [HostDrive.present 0x503#12] } = true := by decide

/-- R119: a run begins with `INIT` or `FAIL` where they start one, not with `BYTE` and not in `HOLD`. -/
theorem test_begins_run :
    (presented 0x107#12 (at_ .done 0#32 0)).beginsRun = true ∧ (presented 0x501#12 State.reset).beginsRun = true ∧
    (presented 0x261#12 State.reset).beginsRun = false ∧ (presented 0x503#12 (at_ .hold 0#32 0)).beginsRun = false := by
  decide

/-! Witnesses: for each statement with hypotheses, states and operands that meet them, clause by clause. -/

theorem witness_InitStartsComputation :
    ((at_ .idle 7#32 9).phase = .idle ∧ (at_ .done 7#32 9).phase = .done ∧ (faultedAt .failed).phase = .failed) ∧
    ((at_ .consuming 7#32 9).phase = .consuming ∧ (at_ .hold 7#32 0).phase = .hold) ∧
    (at_ .folding 7#32 9).phase = .folding := by decide

theorem witness_ByteAccumulatesAndCounts :
    ((at_ .consuming 7#32 (2 ^ 64 - 2)).phase = .consuming ∧
      (at_ .consuming 7#32 (2 ^ 64 - 2)).cnt < 2 ^ (at_ .consuming 7#32 0).cfg.cntW - 1) ∧
    ((at_ .consuming 7#32 (2 ^ 64 - 1)).phase = .consuming ∧
      (at_ .consuming 7#32 (2 ^ 64 - 1)).cnt = 2 ^ (at_ .consuming 7#32 0).cfg.cntW - 1) ∧
    (at_ .failed 7#32 0).phase = .failed ∧ (at_ .folding 7#32 0).phase = .folding := by decide

theorem witness_EosStartsFold :
    (0x01#8 ≠ 0#8) ∧ (at_ .consuming 7#32 3).phase = .consuming ∧ (at_ .hold 7#32 3).phase = .hold ∧
    (at_ .folding 7#32 3).phase = .folding := by decide

theorem witness_FoldFoldsLowByteOfCount :
    (at_ .folding 7#32 256).drive.rst = false ∧ (at_ .folding 7#32 256).phase = .folding ∧
    (at_ .folding 7#32 256).cnt ≠ 0 ∧
    ((at_ .folding 7#32 255).cnt ≠ 0 ∧ (at_ .folding 7#32 255).cnt / 256 = 0) := by decide

theorem witness_FinComplementsAccumulator :
    (at_ .folding 7#32 0).drive.rst = false ∧ (at_ .folding 7#32 0).phase = .folding ∧
    (at_ .folding 7#32 0).cnt = 0 := by decide

theorem witness_RelReportsRelease :
    (0xFF#8 ≠ 0#8) ∧ (at_ .hold 7#32 0).phase = .hold ∧
    ((faultedAt .failed).phase = .failed ∧ (faultedAt .failed).relSeen = false) ∧
    (({ faultedAt .failed with relSeen := true } : State).phase = .failed ∧
      ({ faultedAt .failed with relSeen := true } : State).relSeen = true) ∧
    (at_ .idle 7#32 0).phase = .idle ∧ (at_ .folding 7#32 0).phase = .folding := by decide

theorem witness_FailCausesFault :
    accepts (at_ .idle 7#32 0).phase ∧ (at_ .idle 7#32 0).relSeen = false ∧
    accepts ({ at_ .done 7#32 0 with relSeen := true } : State).phase ∧
    ({ at_ .done 7#32 0 with relSeen := true } : State).relSeen = true ∧
    (0x00#8 = 0#8) ∧ (0x04#8).extractLsb' 2 6 ≠ 0#6 := by decide

theorem witness_FaultEntryIsWholeEffect :
    State.reset.primary = 0#3 ∧ (faultedAt .failed).primary ≠ 0#3 := by decide

theorem witness_FaultBitsAreSticky :
    ∃ t, step (presented 0x503#12 (faultedAt .failed)) = .next t ∧
      (presented 0x503#12 (faultedAt .failed)).drive.rst = false ∧
      ¬ starts (presented 0x503#12 (faultedAt .failed)) ∧
      (presented 0x503#12 (faultedAt .failed)).fault.getLsbD 0 = true ∧
      (presented 0x503#12 (faultedAt .failed)).primary ≠ 0#3 := by
  refine ⟨_, rfl, by decide, ?_, by decide, by decide⟩
  rintro ⟨tag, h, -⟩
  have e : nextIssue (presented 0x503#12 (faultedAt .failed)) = .run .failReleaseFail := by decide
  rw [e] at h
  cases h

theorem witness_FaultBitsAreSticky_new_primary :
    ∃ t, step (presented 0x502#12 (at_ .consuming 0#32 0)) = .next t ∧ t.primary ≠ 0#3 :=
  ⟨_, rfl, by decide⟩

theorem witness_LegalityMatrixGoverns :
    (Instr.wf .host (.init 3#8) = true ∧ outOfPhase false (.init 3#8) (at_ .consuming 0#32 0).phase) ∧
    (Instr.wf .host .failReleaseFail = true ∧ accepts (at_ .hold 0#32 0).phase ∧
      ¬ outOfPhase false .failReleaseFail (at_ .hold 0#32 0).phase) ∧
    (Instr.wf .host .eos = true ∧ (at_ .folding 0#32 0).phase = .folding) :=
  ⟨⟨by decide, .inl rfl⟩, ⟨by decide, by decide, id⟩, by decide, rfl⟩

theorem witness_IllegalWordsFault :
    accepts (presented 0x301#12 (at_ .consuming 0#32 0)).phase ∧
    (presented 0x301#12 (at_ .consuming 0#32 0)).port = HostDrive.present 0x301#12 :: [] ∧
    decode 0x301#12 = .error .argNotZero := by decide

theorem witness_OneCausePerStep :
    (∃ t, step (presented 0x503#12 { at_ .done 0#32 0 with relSeen := true }) = .next t ∧
      (presented 0x503#12 { at_ .done 0#32 0 with relSeen := true }).fault = 0#6 ∧
      (presented 0x503#12 { at_ .done 0#32 0 with relSeen := true }).primary = 0#3) ∧
    (∃ t, step (presented 0x3FF#12 State.reset) = .next t ∧
      (presented 0x3FF#12 State.reset).drive.rst = false ∧ (presented 0x3FF#12 State.reset).drive.cmdValid = true ∧
      accepts (presented 0x3FF#12 State.reset).phase ∧
      decode (presented 0x3FF#12 State.reset).drive.cmd = .error .argNotZero) :=
  ⟨⟨_, rfl, by decide, by decide⟩, _, rfl, by decide⟩

theorem witness_FaultsArePrecise :
    ∃ t, step (presented 0x503#12 (at_ .consuming 7#32 3)) = .next t ∧ t.phase = .failed :=
  ⟨_, rfl, by decide⟩

theorem witness_FailedIsAbsorbing :
    (∃ t, (faultedAt .failed).phase = .failed ∧ step (presented 0x105#12 (faultedAt .failed)) = .next t ∧
      t.phase ≠ .failed) ∧
    ((faultedAt .failed).phase = .failed ∧ (faultedAt .failed).primary ≠ 0#3) :=
  ⟨⟨_, by decide, rfl, by decide⟩, by decide⟩

theorem witness_ReleaseFailureFollowsPrimary :
    ((at_ .consuming 0#32 5).fault = 0#6 ∧ (at_ .consuming 0#32 5).primary = 0#3 ∧
      (at_ .consuming 0#32 5).relSeen = false ∧ (at_ .consuming 0#32 5).phase = .consuming) ∧
    ((at_ .hold 0#32 0).fault = 0#6 ∧ (at_ .hold 0#32 0).primary = 0#3 ∧ (at_ .hold 0#32 0).relSeen = false ∧
      (at_ .hold 0#32 0).phase = .hold) := by decide

theorem inv_done : (presented 0x400#12 { at_ .done 7#32 0 with relSeen := true }).Inv := by
  constructor <;> decide

theorem inv_hold : (presented 0x400#12 (at_ .hold 7#32 0)).Inv := by
  constructor <;> decide

theorem witness_ReleaseReportedOnce :
    (∃ t, step (presented 0x400#12 (at_ .hold 7#32 0)) = .next t ∧
      (presented 0x400#12 (at_ .hold 7#32 0)).relSeen = false) ∧
    (∃ t, step (presented 0x503#12 (at_ .hold 7#32 0)) = .next t ∧
      runs (presented 0x503#12 (at_ .hold 7#32 0)) .failReleaseFail) ∧
    (∃ t, step (presented 0x104#12 (faultedAt .failed)) = .next t ∧ starts (presented 0x104#12 (faultedAt .failed))) ∧
    (∃ t, step (presented 0x400#12 { at_ .done 7#32 0 with relSeen := true }) = .next t ∧
      (presented 0x400#12 { at_ .done 7#32 0 with relSeen := true }).Inv ∧
      (presented 0x400#12 { at_ .done 7#32 0 with relSeen := true }).relSeen = true ∧
      runs (presented 0x400#12 { at_ .done 7#32 0 with relSeen := true }) .rel) :=
  ⟨⟨_, rfl, by decide⟩, ⟨_, rfl, by decide⟩, ⟨_, rfl, 4#8, by decide, by decide⟩, _, rfl, inv_done, by decide, by decide⟩

theorem witness_FailureClassesShowNoResult :
    accepts State.reset.phase ∧ accepts (at_ .consuming 0#32 2).phase := by decide

theorem witness_ResetStepBeatsEverything :
    ({ at_ .folding 7#32 3 with port := [⟨true, true, 0x261#12⟩] } : State).drive.rst = true := by decide

theorem witness_StepRunsTheEnabledStep :
    ({ at_ .folding 7#32 3 with port := [⟨true, true, 0#12⟩] } : State).drive.rst = true ∧
    ((presented 0x261#12 (at_ .consuming 7#32 3)).drive.rst = false ∧
      (presented 0x261#12 (at_ .consuming 7#32 3)).phase ≠ .folding ∧
      (presented 0x261#12 (at_ .consuming 7#32 3)).phase.reserved = false ∧
      (presented 0x261#12 (at_ .consuming 7#32 3)).drive.cmdValid = true ∧
      decode (presented 0x261#12 (at_ .consuming 7#32 3)).drive.cmd = .ok (.byte 0x61#8)) ∧
    ((presented 0x600#12 (at_ .consuming 7#32 3)).phase ≠ .folding ∧
      decode (presented 0x600#12 (at_ .consuming 7#32 3)).drive.cmd = .error .reservedOp) ∧
    ((at_ .folding 7#32 1).phase = .folding ∧ (at_ .folding 7#32 1).cnt ≠ 0) ∧
    ((at_ .folding 7#32 0).phase = .folding ∧ (at_ .folding 7#32 0).cnt = 0) ∧
    ((at_ .hold 7#32 0).phase ≠ .folding ∧ (at_ .hold 7#32 0).drive.cmdValid = false) := by decide

theorem witness_FoldingIgnoresThePort :
    (at_ .folding 7#32 3).phase = .folding ∧ (HostDrive.present 0x400#12).rst = false ∧
    HostDrive.none.rst = false ∧ HostDrive.present 0x400#12 ≠ HostDrive.none := by decide

theorem witness_ReservedPhaseIsStuck :
    (at_ .reserved6 0#32 0).phase = .reserved6 ∧ (presented 0x100#12 (at_ .reserved7 0#32 0)).drive.rst = false ∧
    (presented 0x100#12 (at_ .reserved7 0#32 0)).drive.cmdValid = true ∧
    ({ at_ .reserved7 7#32 3 with port := [⟨true, false, 0#12⟩] } : State).drive.rst = true := by decide

theorem witness_EveryEdgeHasANextState : State.reset.phase.reserved = false := by decide

theorem witness_EveryStepKeepsInvariants :
    ∃ t, (presented 0x400#12 (at_ .hold 7#32 0)).Inv ∧ step (presented 0x400#12 (at_ .hold 7#32 0)) = .next t :=
  ⟨_, inv_hold, rfl⟩

theorem witness_PhaseTransitionsAreTheListedOnes :
    ∃ t, (at_ .folding 7#32 0).phase.reserved = false ∧ step (at_ .folding 7#32 0) = .next t ∧ t.phase = .hold :=
  ⟨_, by decide, rfl, by decide⟩

theorem witness_RegistersWrittenOnlyAsListed :
    ∃ t, step (presented 0x109#12 (faultedAt .failed)) = .next t ∧
      (presented 0x109#12 (faultedAt .failed)).drive.rst = false ∧ t.tag ≠ (faultedAt .failed).tag ∧
      t.cnt ≠ (faultedAt .failed).cnt ∧ t.fault ≠ (faultedAt .failed).fault ∧
      t.primary ≠ (faultedAt .failed).primary :=
  ⟨_, rfl, by decide⟩

theorem witness_RegistersWrittenOnlyAsListed_acc_relSeen :
    (∃ t, step (presented 0x261#12 (at_ .consuming 0#32 0)) = .next t ∧ t.acc ≠ (at_ .consuming 0#32 0).acc) ∧
    (∃ t, step (presented 0x400#12 (at_ .hold 0#32 0)) = .next t ∧ t.relSeen ≠ (at_ .hold 0#32 0).relSeen) :=
  ⟨⟨_, rfl, by decide⟩, _, rfl, by decide⟩

theorem witness_StreamCommandsReadNoStatus :
    ∃ t, ((∃ g, Instr.byte 0x61#8 = .init g) ∨ (∃ b, Instr.byte 0x61#8 = .byte b) ∨ Instr.byte 0x61#8 = .eos) ∧
      exec (.byte 0x61#8) (at_ .consuming 7#32 3) = .next t :=
  ⟨_, .inr (.inl ⟨_, rfl⟩), rfl⟩

theorem witness_InitForgetsThePast :
    State.reset.phase.startable = true ∧ (faultedAt .failed).phase.startable = true ∧
    State.reset.cfg = (faultedAt .failed).cfg ∧ State.reset.port = (faultedAt .failed).port ∧
    State.reset.freeCtr = (faultedAt .failed).freeCtr ∧ State.reset ≠ faultedAt .failed := by decide

theorem witness_DecodeEncodeAgree :
    Instr.wf .host (.byte 0xFF#8) = true ∧ Instr.wf .internal .fold = true ∧
    decodeOp 0x2FF#12 = .ok (.byte 0xFF#8) := by decide

theorem witness_PseudoInstructionsExpand : ([1#8, 255#8] : List Byte) ≠ [] ∧ ∀ c ∈ [0, 127], c < 128 := by decide

theorem witness_AssemblerCoversHostCommands : Instr.wf .host (.init 255#8) = true := by decide

theorem witness_SignedByteHasNoEffect : 8 ≤ 8 ∧ 8 ≤ 32 := by decide

theorem witness_FoldTakesTheCountsBytes : 256 ≠ 0 ∧ 2 ^ 64 - 1 < 2 ^ 64 := by decide

/-- A port that carries the stream `01 02 03` for a counter of two bits, its largest. -/
def streamPort : List HostDrive :=
  presentAll (streamCommands 9#8 [1#8, 2#8, 3#8]) ++ [HostDrive.none, HostDrive.present 0x400#12] ++ []

theorem witness_CountingLaw :
    (faultedAt .failed).phase.startable = true ∧
    [1#8, 2#8, 3#8].length ≤ 2 ^ ({ faultedAt .failed with cfg := ⟨2, 0⟩ } : State).cfg.cntW - 1 ∧
    ({ faultedAt .failed with cfg := ⟨2, 0⟩, port := streamPort } : State).port =
      presentAll (.init 9#8 :: [1#8, 2#8, 3#8].map .byte) ++
        [HostDrive.present 0x300#12, HostDrive.none, HostDrive.present 0x400#12] := by decide

theorem witness_FoldAlwaysEnds :
    (presented 0x400#12 (at_ .folding 7#32 256)).phase = .folding ∧
    ∀ d ∈ (presented 0x400#12 (at_ .folding 7#32 256)).port.take 3, d.rst = false := by decide

theorem witness_StreamEndsInHoldWithCksum :
    (faultedAt .failed).phase.startable = true ∧
    [1#8, 2#8, 3#8].length ≤ 2 ^ ({ faultedAt .failed with cfg := ⟨2, 0⟩ } : State).cfg.cntW - 1 ∧
    [HostDrive.none, HostDrive.present 0x400#12].length = foldSteps [1#8, 2#8, 3#8].length + 1 ∧
    (∀ d ∈ [HostDrive.none, HostDrive.present 0x400#12], d.rst = false) ∧
    ({ faultedAt .failed with cfg := ⟨2, 0⟩, port := streamPort } : State).port =
      presentAll (streamCommands 9#8 [1#8, 2#8, 3#8]) ++ [HostDrive.none, HostDrive.present 0x400#12] ++ [] := by
  decide

theorem witness_FaithfulRunEndsGood :
    (at_ .idle 7#32 9).phase.startable = true ∧ [0x61#8].length ≤ 2 ^ (at_ .idle 7#32 9).cfg.cntW - 1 ∧
    ({ at_ .idle 7#32 9 with port := computeDrives 1#8 [0x61#8] } : State).port = computeDrives 1#8 [0x61#8] := by
  decide

theorem witness_PausesBetweenCommandsChangeNothing :
    (faultedAt .failed).phase.startable = true ∧ [1#8, 2#8, 3#8].length ≤ 2 ^ (Config.cntW ⟨2, 0⟩) - 1 ∧
    ([HostDrive.none] ++ presentAll [.init 9#8, .byte 1#8] ++ [HostDrive.none, HostDrive.none] ++
        presentAll [.byte 2#8, .byte 3#8] ++ [HostDrive.none]).filter (fun d => !d.silent) =
      presentAll (.init 9#8 :: [1#8, 2#8, 3#8].map .byte) := by decide

theorem witness_PausingFaithfulRunEndsGood :
    (at_ .done 7#32 0).phase.startable = true ∧ [0x61#8].length ≤ 2 ^ (at_ .done 7#32 0).cfg.cntW - 1 ∧
    ([HostDrive.none, HostDrive.present 0x261#12].filter (fun d => !d.silent) = presentAll ([0x61#8].map .byte)) ∧
    [HostDrive.none, HostDrive.present 0x400#12].length = foldSteps [0x61#8].length + 1 ∧
    (∀ d ∈ [HostDrive.none, HostDrive.present 0x400#12], d.rst = false) ∧
    (∀ d ∈ [HostDrive.none], d.silent = true) ∧ beginsSource secondSource = true := by decide

/-- A lone `FAIL` after reset, then the second source. -/
theorem isRun_lone_fail :
    IsRun secondSource { State.reset with port := HostDrive.present 0x501#12 :: secondSource } 1
      { State.reset with fault := 1#6, primary := 1#3, phase := .failed, port := secondSource } where
  begins := by decide
  next := by decide
  one := by
    intro j u hj h
    obtain rfl : j = 0 := by omega
    cases h
    exact ⟨by decide, fun h0 => absurd h0 (by decide)⟩
  leads := ⟨by decide, rfl⟩
  ended := by decide
  first := by omega

/-- `INIT`, `EOS`, the core's `FIN` and `REL`: a run that ends good, with nothing after it. -/
theorem isRun_empty_stream :
    IsRun [] { State.reset with port := computeDrives 7#8 [] } 4
      { State.reset with acc := 0xFFFFFFFF#32, relSeen := true, tag := 7#8, phase := .done } where
  begins := by decide
  next := by decide
  one := by
    intro j u hj h
    match j, hj with
    | 0, _ => cases h; decide
    | 1, _ => cases h; decide
    | 2, _ => cases h; decide
    | 3, _ => cases h; decide
  leads := ⟨by decide, rfl⟩
  ended := by decide
  first := by
    intro j u h0 hj h
    match j, h0, hj with
    | 1, _, _ => cases h; decide
    | 2, _, _ => cases h; decide
    | 3, _, _ => cases h; decide

theorem witness_RunDigestIsOfAcceptedBytes :
    (∃ s t, IsRun [] s 4 t ∧ s.startsComputation = true ∧ t.endedGood [] = true) ∧
    (∃ s t, IsRun secondSource s 1 t ∧ s.startsComputation = false) :=
  ⟨⟨_, _, isRun_empty_stream, by decide, by decide⟩, _, _, isRun_lone_fail, by decide⟩

theorem witness_LoneFailIsAFailedRun :
    (at_ .idle 7#32 9).phase.startable = true ∧ (faultedAt .failed).phase.startable = true ∧
    (at_ .done 7#32 0).phase.startable = true ∧ (∀ d ∈ [HostDrive.none], d.silent = true) ∧
    beginsSource secondSource = true ∧ beginsSource [] = true := by decide

theorem inv_done_silent : State.Inv { at_ .done 7#32 0 with relSeen := true } := by
  constructor <;> decide

theorem inv_failed_silent : (faultedAt .failed).Inv := by
  constructor <;> decide

theorem witness_FinalStatesShowTheOutcome :
    (∃ s : State, s.Inv ∧ s.endedGood [] = true) ∧ (∃ s : State, s.Inv ∧ s.endedFailed [] = true) ∧
    (∃ s : State, s.Inv ∧ s.phase = .hold) :=
  ⟨⟨_, inv_done_silent, by decide⟩, ⟨_, inv_failed_silent, by decide⟩, _, inv_hold, by decide⟩

theorem witness_EmptyStreamDigest :
    (faultedAt .failed).phase.startable = true ∧ HostDrive.none.rst = false ∧
    ({ faultedAt .failed with port := presentAll [.init 3#8, .eos] ++ HostDrive.none :: [] } : State).port =
      presentAll [.init 3#8, .eos] ++ HostDrive.none :: [] := by decide

theorem witness_DecodeFollowsOpcodeMap :
    0x1FF#12 &&& 0xF00#12 = 0x100#12 ∧ 0x200#12 &&& 0xF00#12 = 0x200#12 ∧ 0x300#12 &&& 0xFFF#12 = 0x300#12 ∧
    0x900#12 &&& 0xFFF#12 = 0x900#12 := by decide

theorem witness_DigestOnlyOnCompleteSuccess :
    (∃ t, (presented 0x400#12 (at_ .hold 7#32 0)).Inv ∧ step (presented 0x400#12 (at_ .hold 7#32 0)) = .next t ∧
      resultValid t = true) ∧
    (∃ t, step (presented 0x501#12 (at_ .hold 7#32 0)) = .next t ∧
      runs (presented 0x501#12 (at_ .hold 7#32 0)) .failSrcUnavail ∧
      accepts (presented 0x501#12 (at_ .hold 7#32 0)).phase) :=
  ⟨⟨_, inv_hold, rfl, by decide⟩, _, rfl, by decide⟩

theorem witness_ReadyAndValidMoveAsStated :
    (∃ t, (presented 0x300#12 (at_ .consuming 0#32 0)).phase.reserved = false ∧
      step (presented 0x300#12 (at_ .consuming 0#32 0)) = .next t) ∧
    (∃ t, step (presented 0x501#12 { at_ .done 7#32 0 with relSeen := true }) = .next t ∧
      resultValid { at_ .done 7#32 0 with relSeen := true } = true ∧ resultValid t = false) ∧
    (∃ t, step { at_ .done 7#32 0 with relSeen := true } = .next t ∧
      resultValid { at_ .done 7#32 0 with relSeen := true } = true ∧ resultValid t = true) :=
  ⟨⟨_, by decide, rfl⟩, ⟨_, rfl, by decide⟩, _, rfl, by decide⟩

theorem witness_DecStrIsUnsignedDecimal :
    (decStr 0#32).head? = some 0x30#8 ∧ (9#32).toNat < 10 ∧ 10 ≤ (10#32).toNat := by decide

theorem witness_PortsCarryTheDigestInDone :
    (at_ .done 7#32 0).phase = .done ∧ (at_ .hold 7#32 0).phase ≠ .done := by decide

theorem witness_InstancesAreIndependent :
    ∃ a b, System.stepAt 0 [presented 0x107#12 State.reset, presented 0x501#12 State.reset] = .next a ∧ 1 ≠ 0 ∧
      System.stepAt 1 a = .next b :=
  ⟨_, _, rfl, by decide, rfl⟩

end Sys2Proof.Tests
end

/-! The step of an edge, read forwards (00_scope.md R8): each condition gives the issue, and the issue gives the step. -/

namespace Sys2Proof.Machine

/-! ### Which step each condition enables -/

/-- Without a reset a presented word outside `FOLDING` and the reserved phases is taken by `ACCEPT` (30_encoding.md R47). -/
theorem nextIssue_accept {s : State} (hr : s.drive.rst = false) (hf : s.phase ≠ .folding)
    (hres : s.phase.reserved = false) (hv : s.drive.cmdValid = true) : nextIssue s = acceptIssue s.drive.cmd := by
  simp [nextIssue, hr, cmdReady_true.mpr hf, hres, hv]

theorem acceptIssue_ok {w : CmdWord} {i : Instr} (h : decode w = .ok i) : acceptIssue w = .run i := by
  simp [acceptIssue, h]

theorem acceptIssue_error {w : CmdWord} {why : Illegal} (h : decode w = .error why) : acceptIssue w = .illegal := by
  simp [acceptIssue, h]

/-- Without a reset the step in `FOLDING` is the sequencer's, whatever the host presents (30_encoding.md R56). -/
theorem nextIssue_folding {s : State} (hr : s.drive.rst = false) (hp : s.phase = .folding) :
    nextIssue s = if s.cnt = 0 then .run .fin else .run .fold := by
  simp [nextIssue, hr, cmdReady_false.mpr hp]

theorem nextIssue_noCommand {s : State} (hr : s.drive.rst = false) (hf : s.phase ≠ .folding)
    (hv : s.drive.cmdValid = false) : nextIssue s = .quiet := by
  simp [nextIssue, hr, cmdReady_true.mpr hf, hv]

/-! ### What each enabled step does -/

theorem step_of_reset {s : State} (h : nextIssue s = .reset) : step s = .next (resetStep s.tick) := by
  simp [step, h]

theorem step_of_quiet {s : State} (h : nextIssue s = .quiet) : step s = .next s.tick := by
  simp [step, h]

theorem step_of_run {s : State} {i : Instr} (h : nextIssue s = .run i) : step s = exec i s.tick := by
  simp [step, h]

theorem step_of_illegal {s : State} (h : nextIssue s = .illegal) :
    step s = .next (raiseFault .illegalCmd [] s.tick) := by
  simp [step, h]

/-- Settles O21: each of R8's conditions fixes the issue of the edge, and the issue fixes the step. -/
theorem stepRunsTheEnabledStep : Obligations.StepRunsTheEnabledStep := by
  intro s
  refine ⟨fun hrst => step_of_reset (nextIssue_reset.mpr hrst), fun hr => ⟨?_, ?_, ?_, ?_, ?_⟩⟩
  · intro i hf hres hv hd
    exact step_of_run ((nextIssue_accept hr hf hres hv).trans (acceptIssue_ok hd))
  · intro why hf hres hv hd
    exact step_of_illegal ((nextIssue_accept hr hf hres hv).trans (acceptIssue_error hd))
  · intro hp hc
    exact step_of_run ((nextIssue_folding hr hp).trans (if_neg hc))
  · intro hp hc
    exact step_of_run ((nextIssue_folding hr hp).trans (if_pos hc))
  · intro hf hv
    exact step_of_quiet (nextIssue_noCommand hr hf hv)

end Sys2Proof.Machine

/-! The registers of 10_state.md: which edge writes which, and the constants. -/

namespace Sys2Proof.Machine

open Sys2Proof.Claims

/-! ### The edges, by what they write -/

/-- Why an edge raises a fault: the last row of the table of `PHASE` (10_state.md R17). -/
def FaultReason (s : State) : Prop :=
  runs s .failSrcUnavail ∨ runs s .failReadFail ∨ runs s .failReleaseFail ∨ nextIssue s = .illegal ∨
    (∃ i, runs s i ∧ outOfPhase s.relSeen i s.phase) ∨
    (∃ b, runs s (.byte b) ∧ s.phase = .consuming ∧ 2 ^ s.cfg.cntW - 1 ≤ s.cnt)

/-- The steps of `StepEffect` by the rows of R17: all faults are one case, and `BYTE` and `REL` are split where they write
different registers. -/
inductive EdgeWrites (s : State) : State → Prop where
  | reset (hr : s.drive.rst = true) : EdgeWrites s (resetStep s.tick)
  | start (g : Byte) (hi : runs s (.init g)) (hp : s.phase.startable = true) :
      EdgeWrites s (startComputation g s.tick)
  | quiet (hq : nextIssue s = .quiet) : EdgeWrites s s.tick
  | byte (b : Byte) (hi : runs s (.byte b)) (hp : s.phase = .consuming) :
      EdgeWrites s { s.tick with acc := upd s.acc b, cnt := s.cnt + 1 }
  | eos (hi : runs s .eos) (hp : s.phase = .consuming) : EdgeWrites s { s.tick with phase := .folding }
  | fold (hi : runs s .fold) (hp : s.phase = .folding) :
      EdgeWrites s { s.tick with acc := upd s.acc (foldByte s), cnt := shiftedCount s }
  | fin (hi : runs s .fin) (hp : s.phase = .folding) :
      EdgeWrites s { s.tick with acc := ~~~s.acc, phase := .hold }
  | relHold (hi : runs s .rel) (hp : s.phase = .hold) :
      EdgeWrites s { s.tick with relSeen := true, phase := .done }
  | relFailed (hi : runs s .rel) (hp : s.phase = .failed) (hr : s.relSeen = false) :
      EdgeWrites s { s.tick with relSeen := true }
  | fault (c : Cause) (cs : List Cause) (r : Bool) (why : FaultReason s) (hf : s.phase ≠ .folding)
      (hr : r = s.relSeen ∨ runs s .failReleaseFail) :
      EdgeWrites s (raiseFault c cs { s.tick with relSeen := r })

/-- An edge on which a host command does not fit the phase. -/
theorem EdgeWrites.of_outOfPhase {s : State} {i : Instr} (hi : runs s i) (hport : i.port = .host)
    (hp : outOfPhase s.relSeen i s.phase) : EdgeWrites s (raiseFault .protocol [] s.tick) :=
  .fault .protocol [] s.relSeen (.inr (.inr (.inr (.inr (.inl ⟨i, hi, hp⟩))))) (run_host_phase hi hport) (.inl rfl)

theorem EdgeWrites.of_byte {s : State} {b : Byte} (hi : runs s (.byte b)) (hp : s.phase = .consuming) :
    EdgeWrites s (accumulate b s.tick) := by
  unfold accumulate
  split
  next hfull =>
    have hcnt : 2 ^ s.cfg.cntW - 1 ≤ s.cnt := by simpa [counterFull, Config.maxCount] using hfull
    exact .fault .cntOvf [] s.relSeen (.inr (.inr (.inr (.inr (.inr ⟨b, hi, hp, hcnt⟩)))))
      (run_host_phase hi rfl) (.inl rfl)
  next => exact .byte b hi hp

theorem EdgeWrites.of_rel {s : State} (hi : runs s .rel)
    (hp : s.phase = .hold ∨ (s.phase = .failed ∧ s.relSeen = false)) : EdgeWrites s (reportRelease s.tick) := by
  obtain hp | ⟨hp, hr⟩ := hp
  · simpa [reportRelease, hp] using EdgeWrites.relHold hi hp
  · simpa [reportRelease, hp] using EdgeWrites.relFailed hi hp hr

theorem step_writes {s t : State} (h : step s = .next t) : EdgeWrites s t := by
  cases step_effect h with
  | reset hr => exact .reset hr
  | quiet hq => exact .quiet hq
  | illegal hi =>
    exact .fault .illegalCmd [] s.relSeen (.inr (.inr (.inr (.inl hi)))) (nextIssue_illegal hi).2.1 (.inl rfl)
  | init g hi hp => exact .start g hi (startable_iff.mpr hp)
  | byte b hi hp => exact .of_byte hi hp
  | eos hi hp => exact .eos hi hp
  | rel hi hp => exact .of_rel hi hp
  | failSrcUnavail hi => exact .fault .srcUnavail [] s.relSeen (.inl hi) (run_host_phase hi rfl) (.inl rfl)
  | failReadFail hi => exact .fault .readFail [] s.relSeen (.inr (.inl hi)) (run_host_phase hi rfl) (.inl rfl)
  | failReleaseFail hi =>
    exact .fault .releaseFail _ true (.inr (.inr (.inl hi))) (run_host_phase hi rfl) (.inr hi)
  | fold hi hp => exact .fold hi hp
  | fin hi hp => exact .fin hi hp
  | initOutOfPhase g hi hp => exact .of_outOfPhase hi rfl hp
  | byteOutOfPhase b hi hp => exact .of_outOfPhase hi rfl hp
  | eosOutOfPhase hi hp => exact .of_outOfPhase hi rfl hp
  | relOutOfPhase hi hp => exact .of_outOfPhase hi rfl hp

/-- Settles O27: each case of `EdgeWrites` is a row of the table of R17. -/
theorem phaseTransitionsAreTheListedOnes : Obligations.PhaseTransitionsAreTheListedOnes := by
  intro s t _ h
  cases step_writes h with
  | quiet hq => exact .inl ⟨rfl, hq⟩
  | reset hr => exact .inr (.inl ⟨rfl, hr⟩)
  | start g hi hp => exact .inr (.inr (.inl ⟨rfl, g, hi, hp⟩))
  | byte b hi hp => exact .inr (.inr (.inr (.inl ⟨hp, hp, b, hi⟩)))
  | eos hi hp => exact .inr (.inr (.inr (.inr (.inl ⟨hp, rfl, hi⟩))))
  | fold hi hp => exact .inr (.inr (.inr (.inr (.inr (.inl ⟨hp, hp, hi⟩)))))
  | fin hi hp => exact .inr (.inr (.inr (.inr (.inr (.inr (.inl ⟨hp, rfl, hi⟩))))))
  | relHold hi hp => exact .inr (.inr (.inr (.inr (.inr (.inr (.inr (.inl ⟨hp, rfl, hi⟩)))))))
  | relFailed hi hp hr => exact .inr (.inr (.inr (.inr (.inr (.inr (.inr (.inr (.inl ⟨hp, hp, hi, hr⟩))))))))
  | fault c cs r why hf _ => exact .inr (.inr (.inr (.inr (.inr (.inr (.inr (.inr (.inr ⟨hf, rfl, why⟩))))))))

/-! ### Each register's writers (10_state.md R11) -/

section Writers

variable {s t : State}

theorem acc_writers (h : step s = .next t) (hr : s.drive.rst = false) (hne : t.acc ≠ s.acc) :
    starts s ∨ (∃ b, runs s (.byte b)) ∨ runs s .fold ∨ runs s .fin := by
  cases step_writes h with
  | reset hrst => simp [hr] at hrst
  | start g hi hp => exact .inl ⟨g, hi, hp⟩
  | byte b hi _ => exact .inr (.inl ⟨b, hi⟩)
  | fold hi _ => exact .inr (.inr (.inl hi))
  | fin hi _ => exact .inr (.inr (.inr hi))
  | _ => exact absurd rfl hne

theorem cnt_writers (h : step s = .next t) (hr : s.drive.rst = false) (hne : t.cnt ≠ s.cnt) :
    starts s ∨ (∃ b, runs s (.byte b)) ∨ runs s .fold := by
  cases step_writes h with
  | reset hrst => simp [hr] at hrst
  | start g hi hp => exact .inl ⟨g, hi, hp⟩
  | byte b hi _ => exact .inr (.inl ⟨b, hi⟩)
  | fold hi _ => exact .inr (.inr hi)
  | _ => exact absurd rfl hne

theorem relSeen_writers (h : step s = .next t) (hr : s.drive.rst = false) (hne : t.relSeen ≠ s.relSeen) :
    starts s ∨ runs s .rel ∨ runs s .failReleaseFail := by
  cases step_writes h with
  | reset hrst => simp [hr] at hrst
  | start g hi hp => exact .inl ⟨g, hi, hp⟩
  | relHold hi _ => exact .inr (.inl hi)
  | relFailed hi _ _ => exact .inr (.inl hi)
  | fault c cs r _ _ hrel => exact hrel.elim (fun e => absurd e hne) (fun hi => .inr (.inr hi))
  | _ => exact absurd rfl hne

/-- `TAG` is loaded by a starting `INIT` with its operand (R22). -/
theorem tag_writers (h : step s = .next t) (hr : s.drive.rst = false) (hne : t.tag ≠ s.tag) :
    ∃ g, runs s (.init g) ∧ s.phase.startable = true ∧ t.tag = g := by
  cases step_writes h with
  | reset hrst => simp [hr] at hrst
  | start g hi hp => exact ⟨g, hi, hp, rfl⟩
  | _ => exact absurd rfl hne

/-- The model's own fields: only the port moves. -/
theorem step_keeps_modelFields (h : step s = .next t) (hr : s.drive.rst = false) :
    t.cfg = s.cfg ∧ t.freeCtr = s.freeCtr ∧ t.port = s.port.tail := by
  cases step_writes h with
  | reset hrst => simp [hr] at hrst
  | _ => exact ⟨rfl, rfl, rfl⟩

/-- The fault record under an edge that does not clear it: kept, or extended by one fault entry (60_exceptions.md R97). -/
theorem faultRecord_of_step (h : step s = .next t) (hr : s.drive.rst = false) (hs : ¬ starts s) :
    (t.fault = s.fault ∧ t.primary = s.primary) ∨
    (t.phase = .failed ∧ ∃ c cs, t.fault = s.fault ||| causeBits c cs ∧
      t.primary = if s.primary = 0#3 then BitVec.ofNat 3 (minCode c cs) else s.primary) := by
  cases step_writes h with
  | reset hrst => simp [hr] at hrst
  | start g hi hp => exact absurd ⟨g, hi, hp⟩ hs
  | fault c cs r _ _ _ => exact .inr ⟨rfl, c, cs, rfl, rfl⟩
  | _ => exact .inl ⟨rfl, rfl⟩

theorem faultRecord_writers (h : step s = .next t) (hr : s.drive.rst = false)
    (hne : t.fault ≠ s.fault ∨ t.primary ≠ s.primary) : starts s ∨ t.phase = .failed := by
  refine or_iff_not_imp_left.mpr fun hs => ?_
  obtain ⟨hf, hp⟩ | ⟨hfailed, -⟩ := faultRecord_of_step h hr hs
  · exact absurd hne (by simp [hf, hp])
  · exact hfailed

end Writers

/-- Settles O28, register by register. -/
theorem registersWrittenOnlyAsListed : Obligations.RegistersWrittenOnlyAsListed := fun _ _ h hr =>
  ⟨acc_writers h hr, cnt_writers h hr, fun hne => faultRecord_writers h hr (.inl hne),
    fun hne => faultRecord_writers h hr (.inr hne), relSeen_writers h hr, tag_writers h hr,
    step_keeps_modelFields h hr⟩

/-- Settles O9: such an edge keeps the fault record or ORs bits into `FAULT`, where only a zero `PRIMARY` is loaded. -/
theorem faultBitsAreSticky : Obligations.FaultBitsAreSticky := by
  intro s t h hr hs
  obtain ⟨hf, hp⟩ | ⟨hfailed, c, cs, hf, hp⟩ := faultRecord_of_step h hr hs
  · exact ⟨fun k hk => by rw [hf, hk], fun _ => hp, fun hne => absurd hp hne⟩
  · refine ⟨fun k hk => by simp [hf, hk], fun hne => by simp [hp, hne], fun hne => ⟨?_, hfailed⟩⟩
    by_contra hzero
    exact hne (by simp [hp, hzero])

/-! ### `REL_SEEN` (10_state.md R20) -/

section ReleaseReport

variable {s t : State}

theorem step_of_starts (h : step s = .next t) (hs : starts s) : ∃ g, t = startComputation g s.tick := by
  obtain ⟨g, hi, hp⟩ := hs
  obtain ⟨-, rfl⟩ | ⟨hp', -⟩ := execInit_next (s := s.tick) (run_host_tick hi rfl) ((step_of_run hi).symm.trans h)
  · exact ⟨g, rfl⟩
  · obtain hp' | hp' := hp' <;> simp_all [Phase.startable]

theorem step_of_rel (h : step s = .next t) (hi : runs s .rel) :
    ((s.phase = .hold ∨ (s.phase = .failed ∧ s.relSeen = false)) ∧ t = reportRelease s.tick) ∨
    ((s.phase = .idle ∨ s.phase = .consuming ∨ s.phase = .done ∨ (s.phase = .failed ∧ s.relSeen = true)) ∧
      t = raiseFault .protocol [] s.tick) :=
  execRel_next (s := s.tick) (run_host_tick hi rfl) ((step_of_run hi).symm.trans h)

theorem step_of_failReleaseFail (h : step s = .next t) (hi : runs s .failReleaseFail) : t = failRelease s.tick :=
  failed_next (s := s.tick) (run_host_tick hi rfl) ((step_of_run hi).symm.trans h)

theorem accepts_iff {p : Phase} : accepts p ↔ p ≠ .folding ∧ p.reserved = false := by
  cases p <;> decide

/-- An edge that runs a host command runs it in a phase that accepts. -/
theorem accepts_of_run {i : Instr} (hi : runs s i) (hport : i.port = .host) : accepts s.phase := by
  obtain ⟨-, ⟨hf, hres, -⟩ | ⟨-, -, rfl⟩ | ⟨-, -, rfl⟩⟩ := nextIssue_run hi
  · exact accepts_iff.mpr ⟨hf, hres⟩
  · cases hport
  · cases hport

theorem relSeen_cleared (h : step s = .next t) (hc : s.drive.rst = true ∨ starts s) : t.relSeen = false := by
  obtain hr | hs := hc
  · obtain rfl := Host.Outcome.next.inj ((step_of_reset (nextIssue_reset.mpr hr)).symm.trans h)
    rfl
  · obtain ⟨g, rfl⟩ := step_of_starts h hs
    rfl

theorem relSeen_of_failReleaseFail (h : step s = .next t) (hi : runs s .failReleaseFail) : t.relSeen = true := by
  rw [step_of_failReleaseFail h hi, failRelease_relSeen]

/-- With no release reported yet, a `REL` is recorded exactly where it does not fault. -/
theorem relSeen_of_rel_iff (h : step s = .next t) (hi : runs s .rel) (hr : s.relSeen = false) :
    t.relSeen = true ↔ s.phase = .hold ∨ s.phase = .failed := by
  obtain ⟨hp, rfl⟩ | ⟨hp, rfl⟩ := step_of_rel h hi
  · simpa using hp.imp_right And.left
  · simp only [raiseFault_relSeen, tick_relSeen, hr, Bool.false_eq_true, false_iff]
    obtain hp | hp | hp | ⟨-, hp⟩ := hp <;> simp_all

theorem relSeen_set_iff (h : step s = .next t) (hr : s.relSeen = false) :
    t.relSeen = true ↔
      (runs s .rel ∧ (s.phase = .hold ∨ s.phase = .failed)) ∨ (runs s .failReleaseFail ∧ accepts s.phase) := by
  constructor
  · intro ht
    have hkept : ¬ (s.drive.rst = true ∨ starts s) := fun hc => by simp [relSeen_cleared h hc] at ht
    obtain ⟨hrst, hstart⟩ := not_or.mp hkept
    obtain hs | hi | hi := relSeen_writers h (by simpa using hrst) (by simp [ht, hr])
    · exact absurd hs hstart
    · exact .inl ⟨hi, (relSeen_of_rel_iff h hi hr).mp ht⟩
    · exact .inr ⟨hi, accepts_of_run hi rfl⟩
  · rintro (⟨hi, hp⟩ | ⟨hi, -⟩)
    · exact (relSeen_of_rel_iff h hi hr).mpr hp
    · exact relSeen_of_failReleaseFail h hi

/-- Where a release is reported a second time, `PROTOCOL` is raised. The invariant shuts out a `REL` in `HOLD`. -/
theorem protocol_of_second_release (h : step s = .next t) (hinv : s.Inv) (hr : s.relSeen = true)
    (hi : runs s .rel ∨ runs s .failReleaseFail) : t.fault.getLsbD 4 = true ∧ t.phase = .failed := by
  obtain hi | hi := hi
  · obtain ⟨hp | ⟨-, hnone⟩, -⟩ | ⟨-, rfl⟩ := step_of_rel h hi
    · simp [hinv.holdUnreleased hp] at hr
    · simp [hnone] at hr
    · exact ⟨by simp [Cause.bit, Cause.code], rfl⟩
  · rw [step_of_failReleaseFail h hi]
    exact ⟨by simp [hr], rfl⟩

end ReleaseReport

/-- Settles O16, by who clears `REL_SEEN`, who sets it, and what a second release report does. -/
theorem releaseReportedOnce : Obligations.ReleaseReportedOnce :=
  ⟨fun _ _ h hc => relSeen_cleared h hc, fun _ _ h hi => relSeen_of_failReleaseFail h hi,
    fun _ _ h hr => relSeen_set_iff h hr, fun _ _ h hinv hr hi => protocol_of_second_release h hinv hr hi⟩

/-! ### The causes, the state after reset, the table -/

theorem Cause.code_injective : Function.Injective Cause.code := by
  intro c d h
  cases c <;> cases d <;> simp_all [Cause.code]

/-- Settles O18: the list is closed, and the codes are injective. -/
theorem causeCodesAndBits : Obligations.CauseCodesAndBits :=
  ⟨by decide, fun _ _ h => Cause.code_injective h⟩

/-- The result ports are zero while `result_valid = 0` (44_result_output.md R85, R88). -/
theorem resultPort_of_not_valid {s : State} (h : resultValid s = false) : resultPort s = 0#32 := by
  simp [resultPort, h]
theorem decLenPort_of_not_valid {s : State} (h : resultValid s = false) : decLenPort s = 0#4 := by
  simp [decLenPort, h]
theorem decStrPort_of_not_valid {s : State} (h : resultValid s = false) : decStrPort s = 0#80 := by
  simp [decStrPort, h]

/-- Settles O19: `PHASE` after reset is not `DONE`, so the result ports are zero. -/
theorem resetStateAsSpecified : Obligations.ResetStateAsSpecified := by
  have hinvalid : resultValid State.reset = false := rfl
  exact ⟨rfl, rfl, rfl, rfl, rfl, rfl, hinvalid, resultPort_of_not_valid hinvalid, decLenPort_of_not_valid hinvalid,
    decStrPort_of_not_valid hinvalid, by decide⟩

/-- The 256 words listed in 10_state.md R25 are the outputs of R24's rule in index order: a closed fact, evaluated by the
kernel. -/
theorem romTable_eq_map_romGen : romTable = (List.range 256).map (fun n => romGen (BitVec.ofNat 8 n)) := by
  decide +kernel

/-- Settles O36: an 8-bit index is one of the table's 256. -/
theorem romIsTheGeneratedTable : Obligations.RomIsTheGeneratedTable := by
  intro i
  have hlen : i.toNat < 256 := i.isLt
  simp [rom, romTable_eq_map_romGen, List.getD, hlen]

end Sys2Proof.Machine

/-! The encoding (30_encoding.md R45 to R58): words and instructions, the legality matrix, the assembler's expansions. -/

namespace Sys2Proof

/-! ### Words and their fields (R45 to R48) -/

/-- The two fields of R45 are the whole word. -/
theorem opField_append_argField (w : CmdWord) : opField w ++ argField w = w :=
  (BitVec.extractLsb'_append_extractLsb'_eq_extractLsb' rfl).trans BitVec.extractLsb'_eq_self

/-- A word with the fields `op` and `arg` is the two put together. -/
theorem append_eq_of_fields {w : CmdWord} {op : BitVec 4} {arg : Byte} (hop : opField w = op)
    (harg : argField w = arg) : op ++ arg = w := by
  rw [← hop, ← harg, opField_append_argField]

theorem noOperand_eq_ok {arg : Byte} {i j : Instr} : noOperand arg i = .ok j ↔ arg = 0#8 ∧ i = j := by
  unfold noOperand
  split <;> simp_all

theorem decodeCause_eq_ok {arg : Byte} {i : Instr} : decodeCause arg = .ok i ↔
    (arg = 1#8 ∧ i = .failSrcUnavail) ∨ (arg = 2#8 ∧ i = .failReadFail) ∨ (arg = 3#8 ∧ i = .failReleaseFail) := by
  unfold decodeCause
  repeat' split
  all_goals simp_all [eq_comm]

/-! ### Decode and encode -/

theorem decodeOp_encode (i : Instr) : decodeOp (encode i) = .ok i := by
  cases i with
  | init tag => simp [encode, decodeOp]
  | byte b => simp [encode, decodeOp]
  | _ => decide

/-- A word that decodes has the `op` of a row and an operand that the row allows, which are the fields of the row's word. -/
theorem encode_of_decodeOp {w : CmdWord} {i : Instr} (h : decodeOp w = .ok i) : encode i = w := by
  unfold decodeOp at h
  split at h
  next hop => cases h; exact append_eq_of_fields hop rfl
  split at h
  next hop => cases h; exact append_eq_of_fields hop rfl
  split at h
  next hop => obtain ⟨harg, rfl⟩ := noOperand_eq_ok.mp h; exact append_eq_of_fields hop harg
  split at h
  next hop => obtain ⟨harg, rfl⟩ := noOperand_eq_ok.mp h; exact append_eq_of_fields hop harg
  split at h
  next hop =>
    obtain ⟨harg, rfl⟩ | ⟨harg, rfl⟩ | ⟨harg, rfl⟩ := decodeCause_eq_ok.mp h
    · exact append_eq_of_fields hop harg
    · exact append_eq_of_fields hop harg
    · exact append_eq_of_fields hop harg
  split at h
  next hop => obtain ⟨harg, rfl⟩ := noOperand_eq_ok.mp h; exact append_eq_of_fields hop harg
  split at h
  next hop => obtain ⟨harg, rfl⟩ := noOperand_eq_ok.mp h; exact append_eq_of_fields hop harg
  next => cases h

theorem decodeOp_eq_ok {w : CmdWord} {i : Instr} : decodeOp w = .ok i ↔ encode i = w :=
  ⟨encode_of_decodeOp, fun h => h ▸ decodeOp_encode i⟩

theorem encode_injective : Function.Injective encode := fun i j h =>
  Except.ok.inj ((decodeOp_encode i).symm.trans (h ▸ decodeOp_encode j))

theorem isMicroOp_encode (i : Instr) : isMicroOp (encode i) = true ↔ i.port = .internal := by
  cases i with
  | init tag => exact (Laws.OpFieldOfWord.init tag).2
  | byte b => exact (Laws.OpFieldOfWord.byte b).2
  | _ => decide

@[simp] theorem Instr.wf_iff {p : Port} {i : Instr} : i.wf p = true ↔ i.port = p := by simp [Instr.wf]

theorem decode_encode_host {i : Instr} (h : i.port = .host) : decode (encode i) = .ok i := by
  have hmicro : ¬ isMicroOp (encode i) = true := fun hm => by simp [(isMicroOp_encode i).mp hm] at h
  rw [decode, if_neg hmicro, decodeOp_encode]

theorem decode_encode_internal {i : Instr} (h : i.port = .internal) :
    decode (encode i) = .error .microOpOnHostPort := by
  rw [decode, if_pos ((isMicroOp_encode i).mpr h)]

theorem decodeOp_of_decode {w : CmdWord} {i : Instr} (h : decode w = .ok i) : decodeOp w = .ok i := by
  unfold decode at h
  split at h
  · cases h
  · exact h

/-- What the host port decodes: the words of the host commands, no others. -/
theorem decode_eq_ok {w : CmdWord} {i : Instr} : decode w = .ok i ↔ i.port = .host ∧ encode i = w := by
  constructor
  · exact fun h => ⟨decode_port h, encode_of_decodeOp (decodeOp_of_decode h)⟩
  · rintro ⟨hport, rfl⟩
    exact decode_encode_host hport

/-- Settles O32: `decodeOp` answers exactly on the words of `encode`, and the host port refuses a micro-operation's `op`. -/
theorem decodeEncodeAgree : Obligations.DecodeEncodeAgree :=
  ⟨decodeOp_encode, fun _ h => decode_encode_host (Instr.wf_iff.mp h),
    fun _ h => decode_encode_internal (Instr.wf_iff.mp h), fun _ _ => encode_of_decodeOp⟩

/-! ### The opcode map (R48) -/

/-- The row of an instruction. -/
def rowOf : Instr → OpcodeRow
  | .init _ => ⟨0x100#12, 0xF00#12, .host⟩
  | .byte _ => ⟨0x200#12, 0xF00#12, .host⟩
  | .eos => ⟨0x300#12, 0xFFF#12, .host⟩
  | .rel => ⟨0x400#12, 0xFFF#12, .host⟩
  | .failSrcUnavail => ⟨0x501#12, 0xFFF#12, .host⟩
  | .failReadFail => ⟨0x502#12, 0xFFF#12, .host⟩
  | .failReleaseFail => ⟨0x503#12, 0xFFF#12, .host⟩
  | .fold => ⟨0x800#12, 0xFFF#12, .internal⟩
  | .fin => ⟨0x900#12, 0xFFF#12, .internal⟩

/-- A mask `0xF00` keeps `op` alone: the operand is free. -/
theorem and_opMask (op : BitVec 4) (arg : Byte) : (op ++ arg) &&& 0xF00#12 = op ++ 0#8 := by
  have hmask : 0xF00#12 = BitVec.allOnes 4 ++ 0#8 := by decide
  rw [hmask, BitVec.and_append, BitVec.and_allOnes, BitVec.and_zero]

theorem append_of_opMask {w : CmdWord} {op : BitVec 4} (h : w &&& 0xF00#12 = op ++ 0#8) : op ++ argField w = w := by
  refine append_eq_of_fields ?_ rfl
  rw [← opField_append_argField w, and_opMask] at h
  simpa using congrArg opField h

/-- A mask `0xFFF` keeps the whole word. -/
theorem eq_of_fullMask {w c : CmdWord} (h : w &&& 0xFFF#12 = c) : c = w :=
  h.symm.trans BitVec.and_allOnes

theorem rowOf_mem (i : Instr) : rowOf i ∈ opcodeMap := by
  cases i <;> simp [rowOf, opcodeMap]

theorem rowOf_port (i : Instr) : (rowOf i).port = i.port := by
  cases i <;> rfl

/-- The word of an instruction fits its row. -/
theorem rowOf_fits_encode (i : Instr) : (rowOf i).fits (encode i) = true := by
  cases i with
  | init tag => exact decide_eq_true (and_opMask _ _)
  | byte b => exact decide_eq_true (and_opMask _ _)
  | _ => decide

/-- A word that fits a row is the word of an instruction of that row. -/
theorem exists_encode_of_fits {r : OpcodeRow} {w : CmdWord} (hr : r ∈ opcodeMap) (h : r.fits w = true) :
    ∃ i, rowOf i = r ∧ encode i = w := by
  have hfit : w &&& r.mask = r.pattern := of_decide_eq_true h
  simp only [opcodeMap, List.mem_cons, List.not_mem_nil, or_false] at hr
  obtain rfl | rfl | rfl | rfl | rfl | rfl | rfl | rfl | rfl := hr
  · exact ⟨.init (argField w), rfl, append_of_opMask hfit⟩
  · exact ⟨.byte (argField w), rfl, append_of_opMask hfit⟩
  · exact ⟨.eos, rfl, eq_of_fullMask hfit⟩
  · exact ⟨.rel, rfl, eq_of_fullMask hfit⟩
  · exact ⟨.failSrcUnavail, rfl, eq_of_fullMask hfit⟩
  · exact ⟨.failReadFail, rfl, eq_of_fullMask hfit⟩
  · exact ⟨.failReleaseFail, rfl, eq_of_fullMask hfit⟩
  · exact ⟨.fold, rfl, eq_of_fullMask hfit⟩
  · exact ⟨.fin, rfl, eq_of_fullMask hfit⟩

theorem decodes_iff_hostRow_fits (w : CmdWord) :
    (∃ i, decode w = .ok i) ↔ ∃ r ∈ opcodeMap, r.port = .host ∧ r.fits w = true := by
  constructor
  · rintro ⟨i, hi⟩
    obtain ⟨hport, rfl⟩ := decode_eq_ok.mp hi
    exact ⟨rowOf i, rowOf_mem i, (rowOf_port i).trans hport, rowOf_fits_encode i⟩
  · rintro ⟨r, hr, hport, hfit⟩
    obtain ⟨i, rfl, henc⟩ := exists_encode_of_fits hr hfit
    exact ⟨i, decode_eq_ok.mpr ⟨(rowOf_port i).symm.trans hport, henc⟩⟩

/-- Two rows that fit one word are rows of one instruction, since `encode` is injective. -/
theorem row_unique {r r' : OpcodeRow} {w : CmdWord} (hr : r ∈ opcodeMap) (hr' : r' ∈ opcodeMap)
    (h : r.fits w = true) (h' : r'.fits w = true) : r = r' := by
  obtain ⟨i, rfl, hi⟩ := exists_encode_of_fits hr h
  obtain ⟨j, rfl, hj⟩ := exists_encode_of_fits hr' h'
  rw [encode_injective (hi.trans hj.symm)]

theorem opcodeMap_nodup : opcodeMap.Nodup := by decide

theorem fitting_rows_le_one (w : CmdWord) : (opcodeMap.filter (fun r => r.fits w)).length ≤ 1 := by
  rw [← List.toFinset_card_of_nodup (opcodeMap_nodup.filter _), Finset.card_le_one]
  intro r hr r' hr'
  obtain ⟨hmem, hfit⟩ := List.mem_filter.mp (List.mem_toFinset.mp hr)
  obtain ⟨hmem', hfit'⟩ := List.mem_filter.mp (List.mem_toFinset.mp hr')
  exact row_unique hmem hmem' hfit hfit'

/-! ### The legal words, counted: 256 of `INIT`, 256 of `BYTE`, five of the other host rows -/

/-- The 256 values of an operand. -/
def allBytes : List Byte := (List.finRange 256).map BitVec.ofFin

theorem mem_allBytes (b : Byte) : b ∈ allBytes := List.mem_map.mpr ⟨b.toFin, List.mem_finRange _, rfl⟩

theorem allBytes_nodup : allBytes.Nodup :=
  (List.nodup_finRange 256).map fun _ _ h => congrArg BitVec.toFin h

/-- The host commands, row by row. -/
def hostCommands : List Instr :=
  allBytes.map .init ++ allBytes.map .byte ++ [.eos, .rel, .failSrcUnavail, .failReadFail, .failReleaseFail]

theorem mem_hostCommands {i : Instr} : i ∈ hostCommands ↔ i.port = .host := by
  cases i <;> simp [hostCommands, mem_allBytes, Instr.port]

theorem hostCommands_nodup : hostCommands.Nodup := by
  have hinit : (allBytes.map Instr.init).Nodup := allBytes_nodup.map fun _ _ => Instr.init.inj
  have hbyte : (allBytes.map Instr.byte).Nodup := allBytes_nodup.map fun _ _ => Instr.byte.inj
  simp +contextual [hostCommands, List.nodup_append, hinit, hbyte, or_imp, forall_and]

theorem hostCommands_length : hostCommands.length = 517 := by
  simp [hostCommands, allBytes]

/-- The legal numbers are the words of the host commands. -/
theorem mem_legalNumbers {n : Nat} :
    n ∈ (List.range 4096).filter (fun n => (decode (BitVec.ofNat 12 n)).isOk) ↔
      n ∈ hostCommands.map (fun i => (encode i).toNat) := by
  rw [List.mem_filter, List.mem_range, List.mem_map]
  constructor
  · rintro ⟨hn, hok⟩
    cases hd : decode (BitVec.ofNat 12 n) with
    | error why => rw [hd] at hok; cases hok
    | ok i =>
      obtain ⟨hport, henc⟩ := decode_eq_ok.mp hd
      exact ⟨i, mem_hostCommands.mpr hport, by rw [henc, BitVec.toNat_ofNat, Nat.mod_eq_of_lt hn]⟩
  · rintro ⟨i, hi, rfl⟩
    refine ⟨(encode i).isLt, ?_⟩
    rw [BitVec.ofNat_toNat, BitVec.setWidth_eq, decode_encode_host (mem_hostCommands.mp hi)]
    rfl

theorem legalNumbers_length :
    ((List.range 4096).filter (fun n => (decode (BitVec.ofNat 12 n)).isOk)).length = 517 := by
  have hwords : (hostCommands.map (fun i => (encode i).toNat)).Nodup :=
    hostCommands_nodup.map fun _ _ h => encode_injective (BitVec.eq_of_toNat_eq h)
  have hperm := (List.perm_ext_iff_of_nodup (List.nodup_range.filter _) hwords).mpr fun _ => mem_legalNumbers
  rw [hperm.length_eq, List.length_map, hostCommands_length]

/-- Settles O31: a word that fits a row is the word of an instruction of that row, and decoding inverts `encode`. -/
theorem decodeFollowsOpcodeMap : Obligations.DecodeFollowsOpcodeMap := by
  refine ⟨fun w => ⟨?_, ?_, ?_, ?_, ?_, ?_, ?_, ?_, ?_⟩, decodes_iff_hostRow_fits, fitting_rows_le_one,
    legalNumbers_length⟩
  · exact fun h => decode_eq_ok.mpr ⟨rfl, append_of_opMask h⟩
  · exact fun h => decode_eq_ok.mpr ⟨rfl, append_of_opMask h⟩
  · exact fun h => decode_eq_ok.mpr ⟨rfl, eq_of_fullMask h⟩
  · exact fun h => decode_eq_ok.mpr ⟨rfl, eq_of_fullMask h⟩
  · exact fun h => decode_eq_ok.mpr ⟨rfl, eq_of_fullMask h⟩
  · exact fun h => decode_eq_ok.mpr ⟨rfl, eq_of_fullMask h⟩
  · exact fun h => decode_eq_ok.mpr ⟨rfl, eq_of_fullMask h⟩
  · exact fun h => decodeOp_eq_ok.mpr (eq_of_fullMask h)
  · exact fun h => decodeOp_eq_ok.mpr (eq_of_fullMask h)

/-- Settles O33: the words are written out, so the lists are closed. -/
theorem writtenWordsDecode : Obligations.WrittenWordsDecode := by
  unfold Obligations.WrittenWordsDecode
  decide

/-! ### The illegal words (R50) -/

theorem noOperand_error_iff {arg : Byte} {i : Instr} : (∃ why, noOperand arg i = .error why) ↔ arg ≠ 0#8 := by
  unfold noOperand
  split <;> simp_all

/-- The causes 1, 2, 3 are the operands with `arg[7:2] = 0` and `arg[1:0] != 0`. -/
theorem cause_fields (arg : Byte) :
    arg = 1#8 ∨ arg = 2#8 ∨ arg = 3#8 ↔ arg.extractLsb' 2 6 = 0#6 ∧ arg.extractLsb' 0 2 ≠ 0#2 := by
  simp only [ne_eq, ← BitVec.toNat_inj, BitVec.extractLsb'_toNat, BitVec.toNat_ofNat]
  omega

theorem decodeCause_error_iff {arg : Byte} :
    (∃ why, decodeCause arg = .error why) ↔ arg.extractLsb' 2 6 ≠ 0#6 ∨ arg.extractLsb' 0 2 = 0#2 := by
  have hfields := cause_fields arg
  have hlegal : (∃ why, decodeCause arg = .error why) ↔ ¬ (arg = 1#8 ∨ arg = 2#8 ∨ arg = 3#8) := by
    unfold decodeCause
    repeat' split
    all_goals simp_all
  rw [hlegal, hfields, not_and_or, not_not]

/-- The reserved values of `op` (R50). -/
def reservedOps : List (BitVec 4) := [0x0#4, 0x6#4, 0x7#4, 0xA#4, 0xB#4, 0xC#4, 0xD#4, 0xE#4, 0xF#4]

/-- Every value of `op` is reserved or the `op` of a row. -/
theorem op_cases : ∀ op : BitVec 4, op ∈ reservedOps ∨ op = 0x1#4 ∨ op = 0x2#4 ∨ op = 0x3#4 ∨ op = 0x4#4 ∨
    op = 0x5#4 ∨ op = 0x8#4 ∨ op = 0x9#4 := by decide

theorem reservedOps_no_row : ∀ op ∈ reservedOps, op ≠ 0x1#4 ∧ op ≠ 0x2#4 ∧ op ≠ 0x3#4 ∧ op ≠ 0x4#4 ∧ op ≠ 0x5#4 ∧
    op ≠ 0x8#4 ∧ op ≠ 0x9#4 := by decide

theorem decode_reserved {w : CmdWord} (h : opField w ∈ reservedOps) : decode w = .error .reservedOp := by
  simp [decode, isMicroOp, decodeOp, reservedOps_no_row _ h]

theorem decode_error_iff (w : CmdWord) : (∃ why, decode w = .error why) ↔
    opField w ∈ reservedOps ∨ (opField w = 0x3#4 ∨ opField w = 0x4#4) ∧ argField w ≠ 0x00#8 ∨
    opField w = 0x5#4 ∧ ((argField w).extractLsb' 2 6 ≠ 0#6 ∨ (argField w).extractLsb' 0 2 = 0#2) ∨
    opField w = 0x8#4 ∨ opField w = 0x9#4 := by
  obtain h | h | h | h | h | h | h | h := op_cases (opField w)
  · exact iff_of_true ⟨_, decode_reserved h⟩ (.inl h)
  · simp [decode, isMicroOp, decodeOp, h, reservedOps]
  · simp [decode, isMicroOp, decodeOp, h, reservedOps]
  · simp [decode, isMicroOp, decodeOp, h, reservedOps, noOperand_error_iff]
  · simp [decode, isMicroOp, decodeOp, h, reservedOps, noOperand_error_iff]
  · simp [decode, isMicroOp, decodeOp, h, reservedOps, decodeCause_error_iff]
  · simp [decode, isMicroOp, h]
  · simp [decode, isMicroOp, h]

end Sys2Proof

namespace Sys2Proof.Machine

open Sys2Proof.Claims

/-! ### The coming edge of a written port -/

theorem drive_of_port {s : State} {d : HostDrive} {rest : List HostDrive} (h : s.port = d :: rest) : s.drive = d := by
  simp [State.drive, h]

theorem tick_of_port {s : State} {d : HostDrive} {rest : List HostDrive} (h : s.port = d :: rest) :
    s.tick = { s with port := rest } := by
  simp [State.tick, h]

/-- A presented word is taken by `ACCEPT` in every accepting phase (R47). -/
theorem nextIssue_of_presented {s : State} {w : CmdWord} {rest : List HostDrive} (ha : accepts s.phase)
    (hport : s.port = HostDrive.present w :: rest) : nextIssue s = acceptIssue w := by
  obtain ⟨hf, hres⟩ := accepts_iff.mp ha
  have hd := drive_of_port hport
  rw [nextIssue_accept (by rw [hd]; rfl) hf hres (by rw [hd]; rfl), hd]
  rfl

/-- The fault entry with one cause is the record update of the statements. -/
theorem raiseFault_one (c : Cause) (s : State) :
    raiseFault c [] s = faulted c.bit (BitVec.ofNat 3 c.code) s := rfl

/-- Settles O11: the conditions of R50 by the value of `op`; an accepted illegal word enters the fault of one cause. -/
theorem illegalWordsFault : Obligations.IllegalWordsFault := by
  refine ⟨decode_error_iff, fun s w why rest ha hport hw => ?_⟩
  have hissue : nextIssue s = .illegal := (nextIssue_of_presented ha hport).trans (acceptIssue_error hw)
  rw [step_of_illegal hissue, tick_of_port hport, raiseFault_one]
  rfl

/-! ### `FOLDING` ignores the port (R56, I10) -/

/-- Without a reset the edge in `FOLDING` is the sequencer's: what the host drives there does not occur in it. -/
theorem step_folding {s : State} (hr : s.drive.rst = false) (hp : s.phase = .folding) :
    step s = exec (if s.cnt = 0 then .fin else .fold) s.tick := by
  have hissue := nextIssue_folding hr hp
  split at hissue
  next hc => rw [step_of_run hissue, if_pos hc]
  next hc => rw [step_of_run hissue, if_neg hc]

/-- Settles O22: both edges are the same micro-operation on the same state past the edge. -/
theorem foldingIgnoresThePort : Obligations.FoldingIgnoresThePort := fun s d e rest hp hd he =>
  (step_folding (s := { s with port := d :: rest }) hd hp).trans
    (step_folding (s := { s with port := e :: rest }) he hp).symm

/-! ### The legality matrix as a whole (R57, R58) -/

/-- The cell of a host command. The matrix has no row for a micro-operation, which no phase accepts. -/
def legality (relSeen : Bool) : Instr → Phase → Verdict
  | .init _ => legalInit
  | .byte _ => legalStream
  | .eos => legalStream
  | .rel => legalRel relSeen
  | .failSrcUnavail => legalFail
  | .failReadFail => legalFail
  | .failReleaseFail => legalFail
  | .fold => fun _ => .notReady
  | .fin => fun _ => .notReady

/-- The rule of a host command that its cell lets run. -/
def commandEffect : Instr → State → State
  | .init tag, s => startComputation tag s
  | .byte b, s => accumulate b s
  | .eos, s => { s with phase := .folding }
  | .rel, s => reportRelease s
  | .failSrcUnavail, s => failSource .srcUnavail s
  | .failReadFail, s => failSource .readFail s
  | .failReleaseFail, s => failRelease s
  | .fold, s => s
  | .fin, s => s

/-- The meaning of a host command is its effect under its cell. -/
theorem exec_host {i : Instr} (h : i.port = .host) (s : State) :
    exec i s = underVerdict (legality s.relSeen i s.phase) (commandEffect i s) s := by
  cases i with
  | fold => cases h
  | fin => cases h
  | _ => rfl

theorem legality_outOfPhase {i : Instr} {rs : Bool} {p : Phase} :
    legality rs i p = .outOfPhase ↔ outOfPhase rs i p := by
  cases i with
  | init _ => exact legalInit_outOfPhase
  | byte _ => exact legalStream_outOfPhase
  | eos => exact legalStream_outOfPhase
  | rel => exact legalRel_outOfPhase
  | fold => exact iff_of_false (by simp [legality]) id
  | fin => exact iff_of_false (by simp [legality]) id
  | _ => exact iff_of_false (legalFail_ne_outOfPhase p) id

/-- In an accepting phase every cell of the matrix is `ok` or `P`. -/
theorem legal_of_accepts {p : Phase} (r : Bool) (ha : accepts p) :
    (legalInit p = .ok ∨ legalInit p = .outOfPhase) ∧ (legalStream p = .ok ∨ legalStream p = .outOfPhase) ∧
    (legalRel r p = .ok ∨ legalRel r p = .outOfPhase) ∧ (legalFail p = .ok ∨ legalFail p = .outOfPhase) := by
  obtain rfl | rfl | rfl | rfl | rfl := ha <;> cases r <;> decide

theorem legality_of_accepts {i : Instr} {p : Phase} (rs : Bool) (hi : i.port = .host) (ha : accepts p) :
    legality rs i p = .ok ∨ legality rs i p = .outOfPhase := by
  obtain ⟨hinit, hstream, hrel, hfail⟩ := legal_of_accepts rs ha
  cases i with
  | init _ => exact hinit
  | byte _ => exact hstream
  | eos => exact hstream
  | rel => exact hrel
  | fold => cases hi
  | fin => cases hi
  | _ => exact hfail

theorem legality_ok {i : Instr} {rs : Bool} {p : Phase} (hi : i.port = .host) (ha : accepts p)
    (hp : ¬ outOfPhase rs i p) : legality rs i p = .ok :=
  (legality_of_accepts rs hi ha).resolve_right fun hv => hp (legality_outOfPhase.mp hv)

/-- A command that runs raises `PROTOCOL` only as the second release report (R82). -/
theorem protocol_of_commandEffect {i : Instr} {s : State} (h : (commandEffect i s).fault.getLsbD 4 = true) :
    s.fault.getLsbD 4 = true ∨ i = .failReleaseFail ∧ s.relSeen = true := by
  cases i with
  | init _ => simp [commandEffect] at h
  | byte b =>
    rw [commandEffect, accumulate_fault] at h
    split at h
    · exact .inl (by simpa using h)
    · exact .inl h
  | rel => exact .inl (by simpa [commandEffect] using h)
  | failSrcUnavail => exact .inl (by simpa [commandEffect, failSource, Cause.bit, Cause.code] using h)
  | failReadFail => exact .inl (by simpa [commandEffect, failSource, Cause.bit, Cause.code] using h)
  | failReleaseFail =>
    rw [commandEffect, failRelease_fault] at h
    split at h
    next hr => exact .inr ⟨rfl, hr⟩
    next => exact .inl (by simpa using h)
  | _ => exact .inl h

/-- Settles O10: the cell of the matrix decides between the command's effect and the fault entry of `PROTOCOL`. -/
theorem legalityMatrixGoverns : Obligations.LegalityMatrixGoverns := by
  intro i s hwf
  have hi := Instr.wf_iff.mp hwf
  refine ⟨fun hp => ?_, fun ha hp => ⟨commandEffect i s, ?_, fun hbefore hafter => ?_⟩, fun hp hrun => ?_⟩
  · rw [exec_host hi, legality_outOfPhase.mpr hp, underVerdict, raiseFault_one]
    rfl
  · rw [exec_host hi, legality_ok hi ha hp]
    rfl
  · exact (protocol_of_commandEffect hafter).resolve_left (by rw [hbefore]; exact Bool.false_ne_true)
  · exact run_host_phase hrun hi hp

/-! ### The assembler (R54, R55) -/

theorem assemble_one {src : Source} (h : src.wf = true) : assemble [src] = some ((expand src).map encode) := by
  simp [assemble, h]

theorem bytesOf_toNat (bs : List Byte) : bytesOf (bs.map BitVec.toNat) = bs.map .byte := by
  simp [bytesOf]

theorem encode_bytesOf (text : List Nat) :
    (bytesOf text).map encode = text.map (fun c => encode (.byte (BitVec.ofNat 8 c))) := by
  simp [bytesOf]

theorem wf_data {bs : List Byte} (h : bs ≠ []) : (Source.data (bs.map BitVec.toNat)).wf = true := by
  simpa [Source.wf, h] using fun b (_ : b ∈ bs) => b.isLt

theorem wf_ascii {text : List Nat} (h : ∀ c ∈ text, c < 128) : (Source.ascii text).wf = true := by
  simpa [Source.wf] using h

theorem wf_compute (tag : Byte) {text : List Nat} (h : ∀ c ∈ text, c < 128) :
    (Source.compute tag.toNat text).wf = true := by
  simpa [Source.wf, tag.isLt] using h

/-- Settles O34: each line is well formed, and its words are those of its expansion. -/
theorem pseudoInstructionsExpand : Obligations.PseudoInstructionsExpand := by
  refine ⟨fun bs hne => ?_, fun text h => ?_, fun n => ?_, fun tag text h => ?_⟩
  · rw [assemble_one (wf_data hne), expand, bytesOf_toNat, List.map_map]
    rfl
  · rw [assemble_one (wf_ascii h), expand, encode_bytesOf]
  · rw [assemble_one rfl, expand, encode_bytesOf, List.map_replicate]
  · rw [assemble_one (wf_compute tag h), expand]
    simp [encode_bytesOf]

/-- Every host command has a well-formed line that stands for it alone (R54). -/
theorem exists_source_of_host {i : Instr} (h : i.port = .host) : ∃ src : Source, src.wf = true ∧ expand src = [i] := by
  cases i with
  | init tag => exact ⟨.init tag.toNat, by simpa [Source.wf] using tag.isLt, by simp [expand]⟩
  | byte b => exact ⟨.byte b.toNat, by simpa [Source.wf] using b.isLt, by simp [expand, bytesOf]⟩
  | eos => exact ⟨.eos, rfl, rfl⟩
  | rel => exact ⟨.rel, rfl, rfl⟩
  | failSrcUnavail => exact ⟨.fail 1, rfl, rfl⟩
  | failReadFail => exact ⟨.fail 2, rfl, rfl⟩
  | failReleaseFail => exact ⟨.fail 3, rfl, rfl⟩
  | fold => cases h
  | fin => cases h

theorem port_of_mem_bytesOf {bs : List Nat} {i : Instr} (h : i ∈ bytesOf bs) : i.port = .host := by
  obtain ⟨b, -, rfl⟩ := List.mem_map.mp h
  rfl

theorem failOf_port (cause : Nat) : (failOf cause).port = .host := by
  unfold failOf
  repeat' split
  all_goals rfl

/-- No source line stands for a micro-operation. -/
theorem port_of_mem_expand {src : Source} {i : Instr} (h : i ∈ expand src) : i.port = .host := by
  cases src with
  | init tag => obtain rfl := List.mem_singleton.mp h; rfl
  | eos => obtain rfl := List.mem_singleton.mp h; rfl
  | rel => obtain rfl := List.mem_singleton.mp h; rfl
  | fail cause => obtain rfl := List.mem_singleton.mp h; exact failOf_port cause
  | compute tag text =>
    have hcases : i = .init (BitVec.ofNat 8 tag) ∨ i ∈ bytesOf text ∨ i = .eos ∨ i = .rel := by
      simpa [expand] using h
    obtain rfl | hmem | rfl | rfl := hcases
    · rfl
    · exact port_of_mem_bytesOf hmem
    · rfl
    · rfl
  | _ => exact port_of_mem_bytesOf h

/-- Settles O35: a line for each host command, host commands only, and the rule's lines read one by one. -/
theorem assemblerCoversHostCommands : Obligations.AssemblerCoversHostCommands := by
  refine ⟨fun i hi => ?_, fun src i h => Instr.wf_iff.mpr (port_of_mem_expand h), ?_⟩
  · obtain ⟨src, hwf, hexp⟩ := exists_source_of_host (Instr.wf_iff.mp hi)
    exact ⟨src, hwf, by rw [assemble_one hwf, hexp]; rfl⟩
  · decide

end Sys2Proof.Machine

/-! The update datapath (40_update_datapath.md R60, R61): its bit fields as shifts of the accumulator. -/

namespace Sys2Proof.Machine

/-- `a[31:24]` is what a logical shift right by 24 leaves. -/
theorem updIndex_eq_ushiftRight (a : Word) (b : Byte) : updIndex a b = (a >>> 24).setWidth 8 ^^^ b := by
  rw [updIndex, BitVec.setWidth_ushiftRight_eq_extractLsb]

/-- `{a[23:0], 8'h00}` is `a << 8` at 32 bits: the top byte is discarded. -/
theorem extractLsb'_append_zero_eq_shiftLeft (a : Word) : a.extractLsb' 0 24 ++ 0#8 = a <<< 8 := by
  have hlt : 8 < 32 := by decide
  rw [BitVec.shiftLeft_eq_concat_of_lt hlt, BitVec.cast_eq]

theorem upd_eq_shiftLeft_xor_rom (a : Word) (b : Byte) :
    upd a b = (a <<< 8) ^^^ rom ((a >>> 24).setWidth 8 ^^^ b) := by
  rw [upd, extractLsb'_append_zero_eq_shiftLeft, updIndex_eq_ushiftRight]

/-- Settles O39: both fields of `UPD` are shifts, and the two worked examples are evaluated. -/
theorem updIsShiftAndLookup : Obligations.UpdIsShiftAndLookup :=
  ⟨upd_eq_shiftLeft_xor_rom, by decide, by decide⟩

end Sys2Proof.Machine

/-! The stream commands `INIT`, `BYTE`, `EOS` (41_stream_commands.md): each by its cell of the legality matrix. -/

namespace Sys2Proof.Machine

open Sys2Proof.Claims

/-! ### A host command in its phase, out of phase, and in `FOLDING` -/

theorem exec_of_legality_ok {i : Instr} {s : State} (hi : i.port = .host)
    (hv : legality s.relSeen i s.phase = .ok) : exec i s = .next (commandEffect i s) := by
  rw [exec_host hi, hv, underVerdict]

theorem exec_of_outOfPhase {i : Instr} {s : State} (hi : i.port = .host) (hp : outOfPhase s.relSeen i s.phase) :
    exec i s = .next (faulted 0b010000#6 5#3 s) :=
  (legalityMatrixGoverns i s (Instr.wf_iff.mpr hi)).1 hp

theorem not_runs_of_folding {i : Instr} {s : State} (hi : i.port = .host) (hp : s.phase = .folding) : ¬ runs s i :=
  (legalityMatrixGoverns i s (Instr.wf_iff.mpr hi)).2.2 hp

/-! ### `BYTE` in its phase, and its guard (R68) -/

theorem exec_byte_of_consuming {b : Byte} {s : State} (hp : s.phase = .consuming) :
    exec (.byte b) s = .next (accumulate b s) :=
  exec_of_legality_ok rfl (legalStream_ok.mpr hp)

@[simp] theorem counterFull_iff {s : State} : counterFull s = true ↔ 2 ^ s.cfg.cntW - 1 ≤ s.cnt := by
  simp [counterFull, Config.maxCount]

theorem accumulate_of_cnt_lt {b : Byte} {s : State} (h : s.cnt < 2 ^ s.cfg.cntW - 1) :
    accumulate b s = { s with acc := upd s.acc b, cnt := s.cnt + 1 } :=
  if_neg fun hfull => Nat.not_le.mpr h (counterFull_iff.mp hfull)

theorem accumulate_of_cnt_full {b : Byte} {s : State} (h : 2 ^ s.cfg.cntW - 1 ≤ s.cnt) :
    accumulate b s = raiseFault .cntOvf [] s :=
  if_pos (counterFull_iff.mpr h)

/-! ### The statements -/

/-- Settles O1: an in-phase `INIT` is `startComputation`. -/
theorem initStartsComputation : Obligations.InitStartsComputation := by
  refine fun tag s => ⟨decode_encode_host (i := .init tag) rfl, fun hp => ?_, fun hp => ?_, fun hp => ?_⟩
  · exact exec_of_legality_ok rfl (legalInit_ok.mpr hp)
  · exact exec_of_outOfPhase rfl hp
  · exact not_runs_of_folding rfl hp

/-- Settles O2: an in-phase `BYTE` is `accumulate`, whose two cases are the counter's. -/
theorem byteAccumulatesAndCounts : Obligations.ByteAccumulatesAndCounts := by
  refine fun b s => ⟨decode_encode_host (i := .byte b) rfl, fun hp hlt => ?_, fun hp hfull => ?_, fun hp => ?_,
    fun hp => ?_⟩
  · rw [exec_byte_of_consuming hp, accumulate_of_cnt_lt hlt, upd, updIndex]
  · rw [exec_byte_of_consuming hp, accumulate_of_cnt_full hfull.ge, raiseFault_one]
    rfl
  · exact exec_of_outOfPhase rfl hp
  · exact not_runs_of_folding rfl hp

/-- Settles O3: an in-phase `EOS` moves `PHASE` alone, and R50 refuses the other operands. -/
theorem eosStartsFold : Obligations.EosStartsFold := by
  refine fun arg s => ⟨decode_encode_host (i := .eos) rfl, fun harg => ?_, fun hp => ⟨?_, ?_⟩, fun hp => ?_,
    fun hp => ?_⟩
  · exact (decode_error_iff _).mpr (.inr (.inl ⟨.inl (opField_append _ _), by rwa [argField_append]⟩))
  · exact exec_of_legality_ok rfl (legalStream_ok.mpr hp)
  · exact cmdReady_false.mpr rfl
  · exact exec_of_outOfPhase rfl hp
  · exact not_runs_of_folding rfl hp

end Sys2Proof.Machine

/-! The fold and the finalization (42_fold_finalize.md): the sequencer's two micro-operations where they are enabled, and
the stream without bytes. -/

namespace Sys2Proof.Machine

open Sys2Proof.Claims

/-! ### When an edge runs a micro-operation, and what it answers (R74, R76) -/

theorem runs_fold_iff {s : State} (hr : s.drive.rst = false) : runs s .fold ↔ s.phase = .folding ∧ s.cnt ≠ 0 :=
  ⟨run_fold_phase, fun ⟨hp, hc⟩ => (nextIssue_folding hr hp).trans (if_neg hc)⟩

theorem runs_fin_iff {s : State} (hr : s.drive.rst = false) : runs s .fin ↔ s.phase = .folding ∧ s.cnt = 0 :=
  ⟨run_fin_phase, fun ⟨hp, hc⟩ => (nextIssue_folding hr hp).trans (if_pos hc)⟩

theorem whenEnabled_of_enabled {b : Bool} {e s : State} (hres : s.phase.reserved = false) (hb : b = true) :
    whenEnabled b e s = .next e := by
  simp [whenEnabled, hres, hb]

theorem foldEnabled_iff {s : State} : foldEnabled s = true ↔ s.phase = .folding ∧ s.cnt ≠ 0 := by
  simp [foldEnabled]

theorem finEnabled_iff {s : State} : finEnabled s = true ↔ s.phase = .folding ∧ s.cnt = 0 := by
  simp [finEnabled]

theorem exec_fold_of_folding {s : State} (hp : s.phase = .folding) (hc : s.cnt ≠ 0) :
    exec .fold s = .next { s with acc := upd s.acc (foldByte s), cnt := shiftedCount s } :=
  whenEnabled_of_enabled (by rw [hp]; rfl) (foldEnabled_iff.mpr ⟨hp, hc⟩)

theorem exec_fin_of_folding {s : State} (hp : s.phase = .folding) (hc : s.cnt = 0) :
    exec .fin s = .next { s with acc := ~~~s.acc, phase := .hold } :=
  whenEnabled_of_enabled (by rw [hp]; rfl) (finEnabled_iff.mpr ⟨hp, hc⟩)

/-! ### The counter's bytes -/

theorem foldByte_eq_ofNat_mod (s : State) : foldByte s = BitVec.ofNat 8 (s.cnt % 256) :=
  BitVec.eq_of_toNat_eq (by simp [foldByte])

theorem shiftedCount_eq_div (s : State) : shiftedCount s = s.cnt / 256 :=
  Nat.shiftRight_eq_div_pow s.cnt 8

/-- The top byte of a count in base 256 is not zero. -/
theorem ofNat_mod_ne_zero_of_div_eq_zero {n : Nat} (hn : n ≠ 0) (hdiv : n / 256 = 0) :
    BitVec.ofNat 8 (n % 256) ≠ 0#8 := by
  intro h
  have hval : n % 256 = 0 := by simpa using congrArg BitVec.toNat h
  omega

/-- Settles O4: an enabled `FOLD` is one update with the low byte of the count, which then loses that byte. -/
theorem foldFoldsLowByteOfCount : Obligations.FoldFoldsLowByteOfCount := by
  refine ⟨decodeOp_fold, ⟨_, decode_encode_internal (i := .fold) rfl⟩, fun s => ⟨runs_fold_iff, fun hp hc => ?_,
    ofNat_mod_ne_zero_of_div_eq_zero⟩⟩
  rw [exec_fold_of_folding hp hc, upd, updIndex, foldByte_eq_ofNat_mod, shiftedCount_eq_div]

/-- Settles O5: an enabled `FIN` complements all 32 bits, and `HOLD` decides the two outputs. -/
theorem finComplementsAccumulator : Obligations.FinComplementsAccumulator := by
  refine ⟨decodeOp_fin, ⟨_, decode_encode_internal (i := .fin) rfl⟩, fun s => ⟨runs_fin_iff, fun hp hc => ?_⟩⟩
  have hnot : ~~~s.acc = s.acc ^^^ 0xFFFFFFFF#32 := BitVec.xor_allOnes.symm
  exact ⟨_, exec_fin_of_folding hp hc, by rw [hnot], rfl, rfl⟩

/-! ### The edges of a computation -/

/-- The edge that accepts a host command whose cell lets it run. -/
theorem step_of_presented {s : State} {i : Instr} {rest : List HostDrive} (hi : i.port = .host) (ha : accepts s.phase)
    (hv : legality s.relSeen i s.phase = .ok) (hport : s.port = HostDrive.present (encode i) :: rest) :
    step s = .next (commandEffect i { s with port := rest }) := by
  have hissue : nextIssue s = .run i := (nextIssue_of_presented ha hport).trans (acceptIssue_ok (decode_encode_host hi))
  rw [step_of_run hissue, tick_of_port hport]
  exact exec_of_legality_ok hi hv

theorem accepts_of_startable {p : Phase} (h : p.startable = true) : accepts p := by
  obtain rfl | rfl | rfl := startable_iff.mp h <;> simp [accepts]

/-- The edge of the finalization, whatever the host presents on it. -/
theorem step_fin {s : State} (hr : s.drive.rst = false) (hp : s.phase = .folding) (hc : s.cnt = 0) :
    step s = .next { s.tick with acc := ~~~s.acc, phase := .hold } := by
  rw [step_folding hr hp, if_pos hc]
  exact exec_fin_of_folding hp hc

/-- Settles O48: the edges are `INIT`, `EOS` and, the count being 0, `FIN` at once. -/
theorem emptyStreamDigest : Obligations.EmptyStreamDigest := by
  refine ⟨fun s tag d rest hs hd hport => ?_, by decide⟩
  calc runFrom 3 s
    _ = runFrom 2 (startComputation tag { s with port := presentAll [.eos] ++ d :: rest }) :=
      runFrom_next (step_of_presented (i := .init tag) rfl (accepts_of_startable hs)
        (legalInit_ok.mpr (startable_iff.mp hs)) hport)
    _ = runFrom 1 { startComputation tag { s with port := d :: rest } with phase := .folding } :=
      runFrom_next (step_of_presented (i := .eos) rfl (.inr (.inl rfl)) (legalStream_ok.mpr rfl) rfl)
    _ = .next { startComputation tag { s with port := rest } with acc := ~~~0#32, phase := .hold } :=
      runFrom_next (step_fin hd rfl rfl)
    _ = _ := rfl

end Sys2Proof.Machine

/-! Completion and failure (43_completion_failure.md): the rules of `REL` and `FAIL` as record updates, and a failure
followed by the release report. -/

namespace Sys2Proof.Machine

open Sys2Proof.Claims

/-! ### `REL` in its phases (R80) -/

theorem exec_rel_of_legal {s : State} (h : s.phase = .hold ∨ (s.phase = .failed ∧ s.relSeen = false)) :
    exec .rel s = .next (reportRelease s) :=
  exec_of_legality_ok rfl (legalRel_ok.mpr h)

theorem exec_rel_of_hold {s : State} (hp : s.phase = .hold) :
    exec .rel s = .next { s with relSeen := true, phase := .done } := by
  rw [exec_rel_of_legal (.inl hp), reportRelease, if_pos hp]

theorem exec_rel_of_failed {s : State} (hp : s.phase = .failed) (hr : s.relSeen = false) :
    exec .rel s = .next { s with relSeen := true } := by
  have hhold : s.phase ≠ .hold := by simp [hp]
  rw [exec_rel_of_legal (.inr ⟨hp, hr⟩), reportRelease, if_neg hhold]

/-- Settles O6: in its phases `REL` is `reportRelease`, and R50 refuses the other operands. -/
theorem relReportsRelease : Obligations.RelReportsRelease := by
  refine fun arg s => ⟨decode_encode_host (i := .rel) rfl, fun harg => ?_, fun hp => ?_, exec_rel_of_failed,
    fun hp => ?_, fun hp => ?_⟩
  · exact (decode_error_iff _).mpr (.inr (.inl ⟨.inr (opField_append _ _), by rwa [argField_append]⟩))
  · exact ⟨_, exec_rel_of_hold hp, rfl, rfl, rfl⟩
  · exact exec_of_outOfPhase rfl hp
  · exact not_runs_of_folding rfl hp

/-! ### The three `FAIL` commands in a phase that accepts (R82) -/

/-- The row of `FAIL` has no `P` cell, so an accepted `FAIL` always runs its rule, the fault entry of one cause
(`raiseFault_one`). -/
theorem exec_failSrcUnavail_of_accepts {s : State} (ha : accepts s.phase) :
    exec .failSrcUnavail s = .next (faulted 0b000001#6 1#3 s) :=
  exec_of_legality_ok rfl (legalFail_ok.mpr ha)

theorem exec_failReadFail_of_accepts {s : State} (ha : accepts s.phase) :
    exec .failReadFail s = .next (faulted 0b000010#6 2#3 s) :=
  exec_of_legality_ok rfl (legalFail_ok.mpr ha)

theorem exec_failReleaseFail_of_accepts {s : State} (ha : accepts s.phase) :
    exec .failReleaseFail s = .next (failRelease s) :=
  exec_of_legality_ok rfl (legalFail_ok.mpr ha)

/-- The first release report, which failed. -/
theorem failRelease_of_unreported {s : State} (hr : s.relSeen = false) :
    failRelease s = faulted 0b000100#6 3#3 { s with relSeen := true } := by
  simp only [failRelease, hr]
  rfl

/-- A second release report: both causes, and of the two codes `RELEASE_FAIL`'s is the lower one (R97). -/
theorem failRelease_of_reported {s : State} (hr : s.relSeen = true) :
    failRelease s = faulted 0b010100#6 3#3 s := by
  have hkept : { s with relSeen := true } = s := by rw [← hr]
  simp only [failRelease, hr, hkept]
  rfl

/-- `0x5aa` is illegal where `aa` is zero or has a bit above the cause (R50). -/
theorem decode_fail_error {arg : Byte} (h : arg = 0#8 ∨ arg.extractLsb' 2 6 ≠ 0#6) :
    ∃ why, decode (0x5#4 ++ arg) = .error why := by
  refine (decode_error_iff _).mpr (.inr (.inr (.inl ⟨opField_append _ _, ?_⟩)))
  rw [argField_append]
  obtain rfl | hhigh := h
  · exact .inr rfl
  · exact .inl hhigh

/-- Settles O7: an accepted `FAIL` runs its rule, which for `RELEASE_FAIL` depends on whether a release was reported. -/
theorem failCausesFault : Obligations.FailCausesFault := by
  refine ⟨⟨decode_encode_host (i := .failSrcUnavail) rfl, decode_encode_host (i := .failReadFail) rfl,
    decode_encode_host (i := .failReleaseFail) rfl⟩, fun _ => decode_fail_error, fun s ha =>
    ⟨exec_failSrcUnavail_of_accepts ha, exec_failReadFail_of_accepts ha, fun hr => ?_, fun hr => ?_⟩⟩
  · rw [exec_failReleaseFail_of_accepts ha, failRelease_of_unreported hr]
  · rw [exec_failReleaseFail_of_accepts ha, failRelease_of_reported hr]

/-! ### A failure and the release failure after it (R83) -/

/-- Settles O15: the first fault entry leaves `FAILED`, where the second adds its bit and keeps `PRIMARY`. -/
theorem releaseFailureFollowsPrimary : Obligations.ReleaseFailureFollowsPrimary := by
  refine fun s hf hp hr => ⟨fun hconsuming => ?_, fun hhold => ?_⟩
  · have hread := exec_failReadFail_of_accepts (s := s) (.inr (.inl hconsuming))
    have hrelease := exec_failReleaseFail_of_accepts (s := faulted 0b000010#6 2#3 s)
      (.inr (.inr (.inr (.inr rfl))))
    exact ⟨_, _, hread, hrelease, by simp [faulted, hf, hr], by simp [faulted, hp], rfl, rfl⟩
  · have hrelease := exec_failReleaseFail_of_accepts (s := s) (.inr (.inr (.inl hhold)))
    exact ⟨_, hrelease, by simp [hf, hr], by simp [hp], rfl⟩

end Sys2Proof.Machine

/-! The outputs (44_result_output.md): when `cmd_ready` and `result_valid` move, the decimal text, the result ports and the
status port. -/

namespace Sys2Proof.Machine

open Sys2Proof.Claims

/-! ### When `cmd_ready` and `result_valid` move (R86, R90) -/

theorem resultValid_true {s : State} : resultValid s = true ↔ s.phase = .done := by simp [resultValid]

theorem resultValid_false {s : State} : resultValid s = false ↔ s.phase ≠ .done := by simp [resultValid]

section PortMoves

variable {s t : State}

theorem phase_of_eos (h : step s = .next t) (hi : runs s .eos) (hp : s.phase = .consuming) : t.phase = .folding := by
  rw [step_of_run hi, exec_of_legality_ok (i := .eos) (s := s.tick) rfl (legalStream_ok.mpr hp)] at h
  cases h
  rfl

theorem phase_of_fin (h : step s = .next t) (hi : runs s .fin) : t.phase = .hold := by
  obtain ⟨hp, hc⟩ := run_fin_phase hi
  rw [step_of_run hi, exec_fin_of_folding (s := s.tick) hp hc] at h
  cases h
  rfl

theorem phase_of_rel_of_hold (h : step s = .next t) (hi : runs s .rel) (hp : s.phase = .hold) : t.phase = .done := by
  rw [step_of_run hi, exec_rel_of_hold (s := s.tick) hp] at h
  cases h
  rfl

theorem cmdReady_falls_iff (h : step s = .next t) :
    (cmdReady s = true ∧ cmdReady t = false) ↔ (runs s .eos ∧ s.phase = .consuming) := by
  rw [cmdReady_true, cmdReady_false]
  constructor
  · rintro ⟨hready, hbusy⟩
    cases step_writes h with
    | eos hi hp => exact ⟨hi, hp⟩
    | quiet | byte | fold | relFailed => exact absurd hbusy hready
    | reset | start | fin | relHold | fault => cases hbusy
  · rintro ⟨hi, hp⟩
    exact ⟨by simp [hp], phase_of_eos h hi hp⟩

theorem cmdReady_rises_iff (h : step s = .next t) (hr : s.drive.rst = false) :
    (cmdReady s = false ∧ cmdReady t = true) ↔ runs s .fin := by
  rw [cmdReady_true, cmdReady_false]
  constructor
  · rintro ⟨hbusy, hready⟩
    refine (nextIssue_folding hr hbusy).trans (if_pos ?_)
    by_contra hc
    rw [step_folding hr hbusy, if_neg hc, exec_fold_of_folding (s := s.tick) hbusy hc] at h
    cases h
    exact hready hbusy
  · intro hi
    exact ⟨(run_fin_phase hi).1, by simp [phase_of_fin h hi]⟩

theorem resultValid_rises_iff (h : step s = .next t) :
    (resultValid s = false ∧ resultValid t = true) ↔ (runs s .rel ∧ s.phase = .hold) := by
  rw [resultValid_false, resultValid_true]
  constructor
  · rintro ⟨hbefore, hafter⟩
    cases step_writes h with
    | relHold hi hp => exact ⟨hi, hp⟩
    | quiet | byte | fold | relFailed => exact absurd hafter hbefore
    | reset | start | eos | fin | fault => cases hafter
  · rintro ⟨hi, hp⟩
    exact ⟨by simp [hp], phase_of_rel_of_hold h hi hp⟩

/-- Every edge in `DONE` is quiet or leaves it, by a reset, an `INIT` or a fault (R86). -/
theorem step_of_done (h : step s = .next t) (hp : s.phase = .done) :
    t = s.tick ∨
      t.phase ≠ .done ∧ (s.drive.rst = true ∨ (∃ tag, runs s (.init tag)) ∨ t.phase = .failed) := by
  cases step_writes h with
  | quiet => exact .inl rfl
  | reset hr => exact .inr ⟨by simp, .inl hr⟩
  | start g hi => exact .inr ⟨by simp, .inr (.inl ⟨g, hi⟩)⟩
  | fault => exact .inr ⟨by simp, .inr (.inr rfl)⟩
  | byte _ _ hp' | eos _ hp' | fold _ hp' | fin _ hp' | relHold _ hp' | relFailed _ hp' => simp [hp] at hp'

theorem resultValid_falls (h : step s = .next t) (hs : resultValid s = true) (ht : resultValid t = false) :
    s.drive.rst = true ∨ (∃ tag, runs s (.init tag)) ∨ t.phase = .failed := by
  obtain rfl | ⟨-, hwhy⟩ := step_of_done h (resultValid_true.mp hs)
  · exact absurd (resultValid_true.mp hs) (resultValid_false.mp ht)
  · exact hwhy

theorem acc_of_resultValid (h : step s = .next t) (hs : resultValid s = true) (ht : resultValid t = true) :
    t.acc = s.acc := by
  obtain rfl | ⟨hleft, -⟩ := step_of_done h (resultValid_true.mp hs)
  · rfl
  · exact absurd (resultValid_true.mp ht) hleft

end PortMoves

/-- Settles O50: each move of the two ports is a case of the edge's writes. -/
theorem readyAndValidMoveAsStated : Obligations.ReadyAndValidMoveAsStated := fun _ _ _ h =>
  ⟨cmdReady_falls_iff h, cmdReady_rises_iff h, resultValid_rises_iff h, resultValid_falls h, acc_of_resultValid h⟩

/-! ### The decimal text (R87) -/

theorem digitByte_toNat {d : Nat} (h : d < 10) : (digitByte d).toNat = 0x30 + d := by
  simp only [digitByte, BitVec.toNat_add, BitVec.toNat_ofNat]
  omega

theorem decDigits_of_lt (n : Nat) {v : Nat} (h : v < 10) : decDigits (n + 1) v = [digitByte v] := if_pos h

theorem decDigits_of_le (n : Nat) {v : Nat} (h : 10 ≤ v) :
    decDigits (n + 1) v = decDigits n (v / 10) ++ [digitByte (v % 10)] := if_neg (Nat.not_lt.mpr h)

theorem decDigits_length_pos (n v : Nat) : 1 ≤ (decDigits (n + 1) v).length := by
  rw [decDigits]
  split <;> simp

theorem decDigits_length_le (n v : Nat) : (decDigits n v).length ≤ n := by
  induction n, v using decDigits.induct with
  | case1 => exact Nat.le_refl 0
  | case2 n v h => simp [decDigits_of_lt n h]
  | case3 n v h ih => simpa [decDigits_of_le n (Nat.not_lt.mp h)] using ih

/-- A bound of one digit more than the number needs changes nothing. -/
theorem decDigits_bound_succ (n : Nat) {v : Nat} (hv : v < 10 ^ (n + 1)) :
    decDigits (n + 2) v = decDigits (n + 1) v := by
  induction n generalizing v with
  | zero => rw [decDigits_of_lt _ hv, decDigits_of_lt _ hv]
  | succ n ih =>
    by_cases h : v < 10
    · rw [decDigits_of_lt _ h, decDigits_of_lt _ h]
    · have hle := Nat.not_lt.mp h
      rw [decDigits_of_le _ hle, decDigits_of_le _ hle, ih (by omega)]

theorem isDigit_of_mem_decDigits {n v : Nat} {c : Byte} (hc : c ∈ decDigits n v) :
    0x30 ≤ c.toNat ∧ c.toNat ≤ 0x39 := by
  have digit {d : Nat} (hd : d < 10) (he : c = digitByte d) : 0x30 ≤ c.toNat ∧ c.toNat ≤ 0x39 := by
    rw [he, digitByte_toNat hd]
    omega
  induction n, v using decDigits.induct with
  | case1 => cases hc
  | case2 n v h =>
    rw [decDigits_of_lt n h] at hc
    exact digit h (List.mem_singleton.mp hc)
  | case3 n v h ih =>
    rw [decDigits_of_le n (Nat.not_lt.mp h), List.mem_append] at hc
    obtain hc | hc := hc
    · exact ih hc
    · exact digit (Nat.mod_lt v (by decide)) (List.mem_singleton.mp hc)

theorem decDigits_value {n v : Nat} (hv : v < 10 ^ n) :
    (decDigits n v).foldl (fun m c => 10 * m + (c.toNat - 0x30)) 0 = v := by
  induction n, v using decDigits.induct with
  | case1 v => exact (Nat.lt_one_iff.mp hv).symm
  | case2 n v h => simp [decDigits_of_lt n h, digitByte_toNat h]
  | case3 n v h ih =>
    have hlast : v % 10 < 10 := Nat.mod_lt v (by decide)
    rw [decDigits_of_le n (Nat.not_lt.mp h), List.foldl_append, ih (by omega), List.foldl_cons, List.foldl_nil,
      digitByte_toNat hlast]
    omega

/-- Only zero has a text that begins with `"0"`. -/
theorem eq_zero_of_decDigits_head {n v : Nat} (hv : v < 10 ^ n) (hz : (decDigits n v).head? = some 0x30#8) : v = 0 := by
  induction n, v using decDigits.induct with
  | case1 => cases hz
  | case2 n v h =>
    rw [decDigits_of_lt n h] at hz
    have hval := congrArg BitVec.toNat (Option.some.inj hz)
    rw [digitByte_toNat h] at hval
    exact Nat.add_left_cancel hval
  | case3 n v h ih =>
    rw [decDigits_of_le n (Nat.not_lt.mp h)] at hz
    cases n with
    | zero => omega
    | succ n =>
      have hne : decDigits (n + 1) (v / 10) ≠ [] := List.length_pos_iff.mp (decDigits_length_pos n _)
      rw [List.head?_append_of_ne_nil _ hne] at hz
      have := ih (by omega) hz
      omega

theorem toNat_lt_ten_digits (v : Word) : v.toNat < 10 ^ 10 := Nat.lt_trans v.isLt (by decide)

theorem decStr_length_pos (v : Word) : 1 ≤ (decStr v).length := decDigits_length_pos 9 _

theorem decStr_length_le (v : Word) : (decStr v).length ≤ 10 := decDigits_length_le 10 _

theorem decStr_of_lt {v : Word} (h : v.toNat < 10) : decStr v = [0x30#8 + v.setWidth 8] := by
  rw [decStr, decDigits_of_lt 9 h, digitByte, BitVec.ofNat_toNat]

theorem decStr_of_le {v : Word} (h : 10 ≤ v.toNat) :
    decStr v = decStr (v / 10#32) ++ [0x30#8 + (v % 10#32).setWidth 8] := by
  have hdiv : (v / 10#32).toNat = v.toNat / 10 := BitVec.toNat_udiv
  have hmod : (v % 10#32).toNat = v.toNat % 10 := BitVec.toNat_umod
  have hlt : v.toNat / 10 < 10 ^ 9 := by have := v.isLt; omega
  rw [decStr, decDigits_of_le 9 h, decStr, hdiv, decDigits_bound_succ 8 hlt, digitByte, ← hmod, BitVec.ofNat_toNat]

/-- Settles O51: each clause holds of `decDigits` by its recursion, and every word has a text within its ten digits. -/
theorem decStrIsUnsignedDecimal : Obligations.DecStrIsUnsignedDecimal := fun v =>
  ⟨⟨decStr_length_pos v, decStr_length_le v⟩, fun _ => isDigit_of_mem_decDigits,
    decDigits_value (toNat_lt_ten_digits v),
    fun hz => BitVec.eq_of_toNat_eq (eq_zero_of_decDigits_head (toNat_lt_ten_digits v) hz),
    decStr_of_lt, decStr_of_le⟩

/-! ### The result and decimal ports (R85, R88) -/

/-- One byte packed below the bytes so far, as `packText` does it. -/
def packByte (m : BitVec 80) (b : Byte) : BitVec 80 := (m <<< 8) ||| b.setWidth 80

theorem packByte_low (m : BitVec 80) (b : Byte) : (packByte m b).extractLsb' 0 8 = b := by
  ext i hi
  have hlt : i < 80 := by omega
  simp [packByte, hi, hlt, BitVec.getLsbD_eq_getElem]

theorem packByte_above (m : BitVec 80) (b : Byte) {j : Nat} (hj : j + 1 < 10) :
    (packByte m b).extractLsb' (8 * (j + 1)) 8 = m.extractLsb' (8 * j) 8 := by
  ext i hi
  have hlt : 8 * (j + 1) + i < 80 := by omega
  have hle : 8 ≤ 8 * (j + 1) + i := by omega
  have hbelow : 8 * j + i < 80 := by omega
  have hsub : 8 * (j + 1) + i - 8 = 8 * j + i := by omega
  simp [packByte, hlt, Nat.not_lt.mpr hle, hsub, BitVec.getLsbD_of_ge b _ hle, BitVec.getLsbD_eq_getElem hbelow]

/-- Byte `j` of the packed bytes, counted from the bottom, is the `j`-th from the end of the list. -/
theorem packed_byte (bs : List Byte) {j : Nat} (hj : j < 10) :
    (bs.foldl packByte 0#80).extractLsb' (8 * j) 8 = bs.reverse.getD j 0#8 := by
  induction bs using List.reverseRecOn generalizing j with
  | nil => simp
  | append_singleton bs b ih =>
    rw [List.foldl_append, List.reverse_concat]
    cases j with
    | zero => exact packByte_low _ b
    | succ j => exact (packByte_above _ b hj).trans (ih (by omega))

/-- Filler after a list's end reads as what its absence reads as. -/
theorem getD_append_replicate_default {α : Type} (l : List α) (n k : Nat) (d : α) :
    (l ++ List.replicate n d).getD k d = l.getD k d := by
  by_cases hk : k < l.length
  · exact List.getD_append _ _ _ _ hk
  · have hle := Nat.not_lt.mp hk
    rw [List.getD_append_right _ _ _ _ hle, List.getD_eq_default _ _ hle]
    exact List.getElem?_getD_replicate_default_eq _ _ _

/-- A text that fits the port is followed by its filler, and nothing is cut. -/
theorem packText_eq_foldl_packByte {bs : List Byte} (hlen : bs.length ≤ 10) :
    packText bs = (bs ++ List.replicate (10 - bs.length) 0#8).foldl packByte 0#80 := by
  rw [packText, List.take_of_length_le (by simp; omega)]
  rfl

theorem packText_byte {bs : List Byte} (hlen : bs.length ≤ 10) {k : Nat} (hk : k < 10) :
    (packText bs).extractLsb' (72 - 8 * k) 8 = bs.getD k 0x00#8 := by
  have hpad : (bs ++ List.replicate (10 - bs.length) 0#8).length = 10 := by simp; omega
  have hstart : 72 - 8 * k = 8 * (9 - k) := by omega
  have hmirror : 10 - 1 - (9 - k) = k := by omega
  calc (packText bs).extractLsb' (72 - 8 * k) 8
    _ = (bs ++ List.replicate (10 - bs.length) 0#8).reverse.getD (9 - k) 0#8 := by
      rw [packText_eq_foldl_packByte hlen, hstart, packed_byte _ (by omega)]
    _ = (bs ++ List.replicate (10 - bs.length) 0#8).getD k 0#8 := by
      rw [List.getD_reverse _ (by omega), hpad, hmirror]
    _ = bs.getD k 0x00#8 := getD_append_replicate_default bs _ k _

theorem resultPort_of_done {s : State} (hp : s.phase = .done) : resultPort s = s.acc := if_pos (resultValid_true.mpr hp)

theorem decStrPort_of_done {s : State} (hp : s.phase = .done) : decStrPort s = packText (decStr s.acc) :=
  if_pos (resultValid_true.mpr hp)

/-- Four bits hold the length of the text. -/
theorem decLenPort_of_done {s : State} (hp : s.phase = .done) : (decLenPort s).toNat = (decStr s.acc).length := by
  have hle := decStr_length_le s.acc
  rw [decLenPort, if_pos (resultValid_true.mpr hp), BitVec.toNat_ofNat]
  omega

theorem digest?_of_not_valid {s : State} (h : resultValid s = false) : digest? s = none := by
  simp [digest?, h]

/-- Settles O52: in `DONE` the ports carry `ACC` and its text; in every other phase `result_valid` is 0. -/
theorem portsCarryTheDigestInDone : Obligations.PortsCarryTheDigestInDone := by
  refine fun s => ⟨fun hp => ⟨resultPort_of_done hp, decLenPort_of_done hp, fun k hk => ?_⟩, fun hp => ?_⟩
  · rw [decStrPort_of_done hp, packText_byte (decStr_length_le s.acc) hk]
  · have hinvalid := resultValid_false.mpr hp
    exact ⟨resultPort_of_not_valid hinvalid, decLenPort_of_not_valid hinvalid, decStrPort_of_not_valid hinvalid,
      digest?_of_not_valid hinvalid⟩

/-! ### The status port (R89): each field stands above the widths of those after it -/

theorem status_phase (s : State) : (status s).extractLsb' 0 3 = s.phase.code :=
  BitVec.extractLsb'_append_eq_right

theorem status_fault (s : State) : (status s).extractLsb' 3 6 = s.fault := by
  calc (status s).extractLsb' 3 6
    _ = (s.tag ++ BitVec.ofBool s.relSeen ++ s.primary ++ s.fault).extractLsb' 0 6 :=
      BitVec.extractLsb'_append_eq_of_le (by decide)
    _ = s.fault := BitVec.extractLsb'_append_eq_right

theorem status_primary (s : State) : (status s).extractLsb' 9 3 = s.primary := by
  calc (status s).extractLsb' 9 3
    _ = (s.tag ++ BitVec.ofBool s.relSeen ++ s.primary ++ s.fault).extractLsb' 6 3 :=
      BitVec.extractLsb'_append_eq_of_le (by decide)
    _ = (s.tag ++ BitVec.ofBool s.relSeen ++ s.primary).extractLsb' 0 3 :=
      BitVec.extractLsb'_append_eq_of_le (by decide)
    _ = s.primary := BitVec.extractLsb'_append_eq_right

/-- The bits above `PRIMARY` are `REL_SEEN` and `TAG`. -/
theorem status_above_primary (s : State) (start len : Nat) :
    (status s).extractLsb' (start + 12) len = (s.tag ++ BitVec.ofBool s.relSeen).extractLsb' start len := by
  calc (status s).extractLsb' (start + 12) len
    _ = (s.tag ++ BitVec.ofBool s.relSeen ++ s.primary ++ s.fault).extractLsb' (start + 9) len :=
      BitVec.extractLsb'_append_eq_of_le (by omega)
    _ = (s.tag ++ BitVec.ofBool s.relSeen ++ s.primary).extractLsb' (start + 3) len :=
      BitVec.extractLsb'_append_eq_of_le (by omega)
    _ = (s.tag ++ BitVec.ofBool s.relSeen).extractLsb' start len :=
      BitVec.extractLsb'_append_eq_of_le (by omega)

/-- Settles O53, field by field. -/
theorem statusShowsTheControlRegisters : Obligations.StatusShowsTheControlRegisters := fun s =>
  ⟨status_phase s, status_fault s, status_primary s,
    (status_above_primary s 0 1).trans BitVec.extractLsb'_append_eq_right,
    (status_above_primary s 1 8).trans BitVec.extractLsb'_append_eq_left, rfl⟩

end Sys2Proof.Machine

/-! The fault entry (60_exceptions.md R96 to R98): what it records for any set of causes, and how many causes an edge
records. -/

namespace Sys2Proof.Machine

open Sys2Proof.Claims

/-! ### The fault entry for any set of causes (R97) -/

theorem Cause.bit_getLsbD (c : Cause) {k : Nat} (hk : k < 6) : c.bit.getLsbD k = true ↔ c.code - 1 = k := by
  revert k
  cases c <;> decide

/-- The OR of causes' bits onto a mask keeps the mask's bits and adds theirs. -/
theorem getLsbD_foldl_causeBits (cs : List Cause) (m : BitVec 6) (k : Nat) :
    (cs.foldl (fun m d => m ||| d.bit) m).getLsbD k = true ↔
      m.getLsbD k = true ∨ ∃ d ∈ cs, d.bit.getLsbD k = true := by
  induction cs generalizing m with
  | nil => simp
  | cons c cs ih => simp [ih, or_assoc]

theorem causeBits_getLsbD (c : Cause) (cs : List Cause) {k : Nat} (hk : k < 6) :
    (causeBits c cs).getLsbD k = true ↔ ∃ d ∈ c :: cs, d.code - 1 = k := by
  simp [causeBits, getLsbD_foldl_causeBits, Cause.bit_getLsbD _ hk]

theorem min?_codes (c : Cause) (cs : List Cause) : ((c :: cs).map Cause.code).min? = some (minCode c cs) := by
  rw [List.map_cons, List.min?_cons', List.foldl_map, minCode]

/-- The least code is that of a cause of the set. -/
theorem exists_minCode (c : Cause) (cs : List Cause) :
    ∃ d ∈ c :: cs, d.code = minCode c cs ∧ ∀ e ∈ c :: cs, d.code ≤ e.code := by
  obtain ⟨hmem, hle⟩ := List.min?_eq_some_iff.mp (min?_codes c cs)
  obtain ⟨d, hd, hcode⟩ := List.mem_map.mp hmem
  exact ⟨d, hd, hcode, fun e he => hcode.trans_le (hle _ (List.mem_map_of_mem he))⟩

/-- Settles O8: `causeBits` is the set's bits, `minCode` its least code, and the other fields are not in the update. -/
theorem faultEntryIsWholeEffect : Obligations.FaultEntryIsWholeEffect := by
  refine fun c cs s => ⟨fun k hk => ?_, fun hp => ?_, fun hp => ?_, rfl⟩
  · rw [raiseFault_fault, BitVec.getLsbD_or, Bool.or_eq_true, causeBits_getLsbD c cs hk]
  · obtain ⟨d, hd, hcode, hle⟩ := exists_minCode c cs
    exact ⟨d, hd, by rw [raiseFault_primary, if_pos hp, hcode], hle⟩
  · rw [raiseFault_primary, if_neg hp]

/-! ### One cause an edge (R98) -/

/-- What an edge from a state without a fault leaves in the fault record: nothing, or one cause and its code. -/
def RecordsAtMostOne (t : State) : Prop :=
  (t.fault = 0#6 ∧ t.primary = 0#3) ∨
  ∃ c : Cause, t.fault = 1#6 <<< (c.code - 1) ∧ t.primary = BitVec.ofNat 3 c.code

section FirstFault

variable {s t : State} (hf : s.fault = 0#6) (hp : s.primary = 0#3)
include hf hp

theorem recordsAtMostOne_raiseFault (c : Cause) : RecordsAtMostOne (raiseFault c [] s) :=
  .inr ⟨c, by simp [hf, Cause.bit], by simp [hp]⟩

theorem recordsAtMostOne_accumulate (b : Byte) : RecordsAtMostOne (accumulate b s) := by
  unfold accumulate
  split
  · exact recordsAtMostOne_raiseFault hf hp .cntOvf
  · exact .inl ⟨hf, hp⟩

theorem recordsAtMostOne_failRelease (hr : s.relSeen = false) : RecordsAtMostOne (failRelease s) :=
  .inr ⟨.releaseFail, by simp [hf, hr, Cause.code], by simp [hp, Cause.code]⟩

/-- Only the second release report records more than one cause. -/
theorem recordsAtMostOne_of_step (h : step s = .next t) :
    RecordsAtMostOne t ∨ (runs s .failReleaseFail ∧ s.relSeen = true) := by
  cases step_effect h with
  | reset | init => exact .inl (.inl ⟨rfl, rfl⟩)
  | quiet | eos | fold | fin => exact .inl (.inl ⟨hf, hp⟩)
  | rel => exact .inl (.inl ⟨by simpa using hf, by simpa using hp⟩)
  | byte b => exact .inl (recordsAtMostOne_accumulate (s := s.tick) hf hp b)
  | failReleaseFail hi =>
    cases hr : s.relSeen with
    | false => exact .inl (recordsAtMostOne_failRelease (s := s.tick) hf hp hr)
    | true => exact .inr ⟨hi, rfl⟩
  | illegal | failSrcUnavail | failReadFail | initOutOfPhase | byteOutOfPhase | eosOutOfPhase | relOutOfPhase =>
    exact .inl (recordsAtMostOne_raiseFault (s := s.tick) hf hp _)

end FirstFault

/-- A malformed word is refused before its phase is looked at. -/
theorem step_of_malformed {s : State} {why : Illegal} (hr : s.drive.rst = false) (hv : s.drive.cmdValid = true)
    (ha : accepts s.phase) (hd : decode s.drive.cmd = .error why) :
    step s = .next (raiseFault .illegalCmd [] s.tick) := by
  obtain ⟨hfold, hres⟩ := accepts_iff.mp ha
  exact step_of_illegal ((nextIssue_accept hr hfold hres hv).trans (acceptIssue_error hd))

/-- Settles O12: an edge records at most one cause but for the second release report, whose record is evaluated. -/
theorem oneCausePerStep : Obligations.OneCausePerStep := by
  refine ⟨fun s t h hf hp => ?_, fun s t why h hr hv ha hd => ?_⟩
  · obtain (hnone | hone) | ⟨hi, hr⟩ := recordsAtMostOne_of_step hf hp h
    · exact .inl hnone
    · exact .inr (.inl hone)
    · rw [step_of_failReleaseFail h hi]
      exact .inr (.inr ⟨hi, hr, by simp [hf, hr], by simp [hp]⟩)
  · obtain rfl := Host.Outcome.next.inj ((step_of_malformed hr hv ha hd).symm.trans h)
    rfl

/-! ### The failure classes of D0 (R96) -/

/-- Settles O17: either `FAIL` is accepted as the fault entry of its cause, and `FAILED` shows no result. -/
theorem failureClassesShowNoResult : Obligations.FailureClassesShowNoResult := by
  refine ⟨fun s ha => ⟨_, exec_failSrcUnavail_of_accepts ha, rfl, ?_, rfl⟩,
    fun s ha => ⟨_, exec_failReadFail_of_accepts ha, rfl, ?_, rfl⟩⟩
  · simp [faulted]
  · simp [faulted]

end Sys2Proof.Machine

/-! The reset (70_reset_and_hazards.md R109): its edge from every state. -/

namespace Sys2Proof.Machine

/-- The free value a reset leaves in `CNT` is cut to the register's width (R109, log 3). -/
theorem resetStep_cnt_lt (s : State) : (resetStep s).cnt < 2 ^ s.cfg.cntW :=
  Nat.mod_lt _ (Nat.two_pow_pos _)

/-- Settles O20: `rst` issues `RESET` before anything else is looked at, and what `RESET` leaves in `ACC`, `CNT` and the
free-value counter are the witnesses. -/
theorem resetStepBeatsEverything : Obligations.ResetStepBeatsEverything := by
  intro s hrst
  exact ⟨(resetStep s.tick).acc, (resetStep s.tick).cnt, (resetStep s.tick).freeCtr, resetStep_cnt_lt s.tick,
    step_of_reset (nextIssue_reset.mpr hrst)⟩

end Sys2Proof.Machine

/-! The state invariants (10_state.md R21): every edge from a state that meets them leads to one that does. -/

namespace Sys2Proof.Machine

open Sys2Proof.Claims

/-! ### The fault record after a fault entry (R19, R97) -/

theorem Cause.code_bounds (c : Cause) : 0 < c.code ∧ c.code < 7 := by
  cases c <;> decide

/-- The code a fault entry loads into a zero `PRIMARY` is that of one of its causes. -/
theorem minCode_bounds (c : Cause) (cs : List Cause) : 0 < minCode c cs ∧ minCode c cs < 7 := by
  obtain ⟨d, -, hcode, -⟩ := exists_minCode c cs
  exact hcode ▸ d.code_bounds

theorem toNat_ofNat_minCode (c : Cause) (cs : List Cause) : (BitVec.ofNat 3 (minCode c cs)).toNat = minCode c cs := by
  have hlt := (minCode_bounds c cs).2
  rw [BitVec.toNat_ofNat, Nat.mod_eq_of_lt (by omega)]

theorem raiseFault_primary_ne_zero (c : Cause) (cs : List Cause) (s : State) : (raiseFault c cs s).primary ≠ 0#3 := by
  rw [raiseFault_primary]
  split
  · have hpos := (minCode_bounds c cs).1
    intro hzero
    have hcode := toNat_ofNat_minCode c cs
    rw [hzero, BitVec.toNat_ofNat] at hcode
    omega
  · assumption

/-- A fault entry keeps R21 (c): `PRIMARY` is the code of a recorded cause. -/
theorem raiseFault_primary_recorded (c : Cause) (cs : List Cause) {s : State}
    (h : s.primary ≠ 0#3 → s.fault.getLsbD (s.primary.toNat - 1) = true) :
    (raiseFault c cs s).fault.getLsbD ((raiseFault c cs s).primary.toNat - 1) = true := by
  rw [raiseFault_fault, raiseFault_primary, BitVec.getLsbD_or, Bool.or_eq_true]
  split
  · obtain ⟨d, hd, hcode, -⟩ := exists_minCode c cs
    have hlt := (minCode_bounds c cs).2
    exact .inr ((causeBits_getLsbD c cs (by rw [toNat_ofNat_minCode]; omega)).mpr
      ⟨d, hd, by rw [toNat_ofNat_minCode, hcode]⟩)
  next hp => exact .inl (h hp)

theorem ne_zero_of_getLsbD {w : Nat} {v : BitVec w} {k : Nat} (h : v.getLsbD k = true) : v ≠ 0#w := by
  rintro rfl
  simp at h

/-! ### The invariants in `FAILED` and elsewhere -/

/-- In `FAILED` the invariants say that a first cause is recorded and that the counter fits its width. -/
theorem State.Inv.of_failed {s : State} (hp : s.phase = .failed) (hne : s.primary ≠ 0#3)
    (hrec : s.fault.getLsbD (s.primary.toNat - 1) = true) (hfits : s.cnt < 2 ^ s.cfg.cntW) : s.Inv where
  phaseLegal := by rw [hp]; rfl
  faultIffPrimary := iff_of_true (ne_zero_of_getLsbD hrec) hne
  primaryIffFailed := iff_of_true hne hp
  primaryRecorded := fun _ => hrec
  holdUnreleased := by simp [hp]
  doneReleased := by simp [hp]
  earlyUnreleased := by simp [hp]
  countFolded := by simp [hp]
  countFits := hfits

/-- Outside `FAILED` they say that no fault is recorded, and `REL_SEEN` and the folded counter go with the phase. -/
theorem State.Inv.of_not_failed {s : State} (hres : s.phase.reserved = false) (hp : s.phase ≠ .failed)
    (hf : s.fault = 0#6) (hpr : s.primary = 0#3) (hrel : s.relSeen = decide (s.phase = .done))
    (hcnt : s.phase = .hold ∨ s.phase = .done → s.cnt = 0) (hfits : s.cnt < 2 ^ s.cfg.cntW) : s.Inv where
  phaseLegal := hres
  faultIffPrimary := by simp [hf, hpr]
  primaryIffFailed := by simp [hpr, hp]
  primaryRecorded := fun hne => absurd hpr hne
  holdUnreleased := by simp +contextual [hrel]
  doneReleased := by simp +contextual [hrel]
  earlyUnreleased := by rintro (h | h | h) <;> simp [hrel, h]
  countFolded := hcnt
  countFits := hfits

section Invariants

variable {s t : State}

theorem State.Inv.noFault (h : s.Inv) (hp : s.phase ≠ .failed) : s.fault = 0#6 ∧ s.primary = 0#3 := by
  have hpr : s.primary = 0#3 := by
    by_contra hne
    exact hp (h.primaryIffFailed.mp hne)
  refine ⟨?_, hpr⟩
  by_contra hne
  exact h.faultIffPrimary.mp hne hpr

/-- The port is no part of the invariants. -/
theorem State.Inv.tick (h : s.Inv) : s.tick.Inv :=
  ⟨h.phaseLegal, h.faultIffPrimary, h.primaryIffFailed, h.primaryRecorded, h.holdUnreleased, h.doneReleased,
    h.earlyUnreleased, h.countFolded, h.countFits⟩

/-! ### Each operation keeps them -/

theorem State.Inv.raiseFault (h : s.Inv) (c : Cause) (cs : List Cause) : (raiseFault c cs s).Inv :=
  .of_failed rfl (raiseFault_primary_ne_zero c cs s) (raiseFault_primary_recorded c cs h.primaryRecorded) h.countFits

theorem State.Inv.failRelease (h : s.Inv) : (failRelease s).Inv :=
  .of_failed rfl (raiseFault_primary_ne_zero _ _ _)
    (raiseFault_primary_recorded _ _ (s := { s with relSeen := true }) h.primaryRecorded) h.countFits

theorem resetStep_inv (s : State) : (resetStep s).Inv :=
  .of_not_failed rfl (by simp) rfl rfl rfl (by simp) (resetStep_cnt_lt s)

theorem startComputation_inv (g : Byte) (s : State) : (startComputation g s).Inv :=
  .of_not_failed rfl (by simp) rfl rfl rfl (by simp) (Nat.two_pow_pos _)

/-- `BYTE` counts only below the largest count (R68). -/
theorem State.Inv.accumulate (h : s.Inv) (b : Byte) (hp : s.phase = .consuming) : (accumulate b s).Inv := by
  obtain ⟨hf, hpr⟩ := h.noFault (by simp [hp])
  by_cases hfull : 2 ^ s.cfg.cntW - 1 ≤ s.cnt
  · rw [accumulate_of_cnt_full hfull]
    exact h.raiseFault .cntOvf []
  · rw [accumulate_of_cnt_lt (Nat.not_le.mp hfull)]
    exact .of_not_failed h.phaseLegal (by simp [hp]) hf hpr (by simp [hp, h.earlyUnreleased (.inr (.inl hp))])
      (by simp [hp]) (by simp only; omega)

theorem State.Inv.eos (h : s.Inv) (hp : s.phase = .consuming) : State.Inv { s with phase := .folding } := by
  obtain ⟨hf, hpr⟩ := h.noFault (by simp [hp])
  exact .of_not_failed rfl (by simp) hf hpr (h.earlyUnreleased (.inr (.inl hp))) (by simp) h.countFits

theorem State.Inv.fold (h : s.Inv) (hp : s.phase = .folding) (a : Word) :
    State.Inv { s with acc := a, cnt := shiftedCount s } := by
  obtain ⟨hf, hpr⟩ := h.noFault (by simp [hp])
  have hle : shiftedCount s ≤ s.cnt := Nat.shiftRight_le s.cnt 8
  exact .of_not_failed h.phaseLegal (by simp [hp]) hf hpr (by simp [hp, h.earlyUnreleased (.inr (.inr hp))])
    (by simp [hp]) (hle.trans_lt h.countFits)

theorem State.Inv.fin (h : s.Inv) (hp : s.phase = .folding) (hc : s.cnt = 0) (a : Word) :
    State.Inv { s with acc := a, phase := .hold } := by
  obtain ⟨hf, hpr⟩ := h.noFault (by simp [hp])
  exact .of_not_failed rfl (by simp) hf hpr (h.earlyUnreleased (.inr (.inr hp))) (fun _ => hc) h.countFits

theorem State.Inv.reportRelease (h : s.Inv) (hp : s.phase = .hold ∨ s.phase = .failed) : (reportRelease s).Inv := by
  obtain hp | hp := hp
  · obtain ⟨hf, hpr⟩ := h.noFault (by simp [hp])
    exact .of_not_failed (by simp [hp, Phase.reserved]) (by simp [hp]) (by simpa using hf) (by simpa using hpr)
      (by simp [hp]) (fun _ => by simpa using h.countFolded (.inl hp)) (by simpa using h.countFits)
  · have hne := h.primaryIffFailed.mpr hp
    exact .of_failed (by simp [hp]) (by simpa using hne) (by simpa using h.primaryRecorded hne)
      (by simpa using h.countFits)

end Invariants

/-- Settles O26: each step of R8 is one of the operations above, on the state whose port has moved past the edge. -/
theorem everyStepKeepsInvariants : Obligations.EveryStepKeepsInvariants := by
  intro s t hinv h
  have htick := hinv.tick
  cases step_effect h with
  | reset => exact resetStep_inv _
  | quiet => exact htick
  | init g => exact startComputation_inv g _
  | byte b _ hp => exact htick.accumulate b hp
  | eos _ hp => exact htick.eos hp
  | rel _ hp => exact htick.reportRelease (hp.imp_right And.left)
  | fold _ hp => exact htick.fold hp _
  | fin _ hp hc => exact htick.fin hp hc _
  | failReleaseFail => exact htick.failRelease
  | illegal | failSrcUnavail | failReadFail | initOutOfPhase | byteOutOfPhase | eosOutOfPhase | relOutOfPhase =>
    exact htick.raiseFault _ []

/-- Settles O25: after reset no fault is recorded, and `CNT` fits any width. -/
theorem resetMeetsInvariants : Obligations.ResetMeetsInvariants :=
  .of_not_failed rfl (by decide) rfl rfl rfl (by decide) (Nat.two_pow_pos _)

end Sys2Proof.Machine

/-! Progress, precision and absorption: what a step can do in the phases that accept, into `FAILED` and out of it
(60_exceptions.md R100 to R102, 93_implementation_defined.md section 1). -/

namespace Sys2Proof.Machine

open Sys2Proof.Claims

/-! ### Every edge in a phase of R16 has a next state -/

/-- An accepted host command has an outcome: its own effect, or the fault entry of `PROTOCOL` (R57). -/
theorem exec_host_next {i : Instr} {s : State} (hi : i.port = .host) (ha : accepts s.phase) :
    ∃ t, exec i s = .next t := by
  obtain hv | hv := legality_of_accepts s.relSeen hi ha
  · exact ⟨_, exec_of_legality_ok hi hv⟩
  · exact ⟨_, exec_of_outOfPhase hi (legality_outOfPhase.mp hv)⟩

theorem step_of_runs_next {s : State} {i : Instr} (hi : runs s i) : ∃ t, step s = .next t := by
  rw [step_of_run hi]
  obtain ⟨-, ⟨hf, hres, -, -, hport⟩ | ⟨hp, hc, rfl⟩ | ⟨hp, hc, rfl⟩⟩ := nextIssue_run hi
  · exact exec_host_next hport (accepts_iff.mpr ⟨hf, hres⟩)
  · exact ⟨_, exec_fin_of_folding (s := s.tick) hp hc⟩
  · exact ⟨_, exec_fold_of_folding (s := s.tick) hp hc⟩

/-- Settles O24: the one issue without a next state needs a reserved phase. -/
theorem everyEdgeHasANextState : Obligations.EveryEdgeHasANextState := by
  intro s hres
  cases hissue : nextIssue s with
  | reset => exact ⟨_, step_of_reset hissue⟩
  | quiet => exact ⟨_, step_of_quiet hissue⟩
  | run i => exact step_of_runs_next hissue
  | illegal => exact ⟨_, step_of_illegal hissue⟩
  | stuck => simp [(nextIssue_stuck hissue).2.1] at hres

/-! ### The reserved phases (I7) -/

theorem nextIssue_of_reserved {s : State} (hr : s.drive.rst = false) (hv : s.drive.cmdValid = true)
    (hres : s.phase.reserved = true) (hf : s.phase ≠ .folding) : nextIssue s = .stuck := by
  simp [nextIssue, hr, cmdReady_true.mpr hf, hv, hres]

/-- Settles O23: a presented command finds no step there, and `RESET` is looked at before the phase. -/
theorem reservedPhaseIsStuck : Obligations.ReservedPhaseIsStuck := by
  intro s hp
  have hres : s.phase.reserved = true ∧ s.phase ≠ .folding := by obtain hp | hp := hp <;> simp [hp, Phase.reserved]
  refine ⟨fun hr hv => ?_, fun hr => ⟨_, step_of_reset (nextIssue_reset.mpr hr), rfl⟩⟩
  rw [step, nextIssue_of_reserved hr hv hres.1 hres.2]

/-! ### A step into `FAILED` (R100) -/

/-- Settles O13: such an edge is a fault entry, or it was taken in `FAILED` by silence or a clean release report. -/
theorem faultsArePrecise : Obligations.FaultsArePrecise := by
  intro s t h ht
  cases step_writes h with
  | fault c cs r _ _ hr =>
    refine ⟨rfl, hr.imp id fun hi => .inl ⟨hi, ?_⟩⟩
    exact relSeen_of_failReleaseFail h hi
  | quiet => exact ⟨by rw [← ht]; rfl, .inl rfl⟩
  | relFailed hi hp => exact ⟨by rw [← hp]; rfl, .inr (.inr ⟨hi, hp, rfl, rfl⟩)⟩
  | byte _ _ hp | fold _ hp => simp [hp] at ht
  | reset | start | eos | fin | relHold => cases ht

/-! ### The way out of `FAILED`, and the commands there (R101, R102) -/

theorem exit_of_failed {s t : State} (hp : s.phase = .failed) (h : step s = .next t) (ht : t.phase ≠ .failed) :
    (s.drive.rst = true ∧ t.phase = .idle) ∨ (∃ tag, runs s (.init tag)) ∧ t.phase = .consuming ∧
      t.fault = 0#6 ∧ t.primary = 0#3 ∧ t.relSeen = false := by
  cases step_writes h with
  | reset hr => exact .inl ⟨hr, rfl⟩
  | start g hi => exact .inr ⟨⟨g, hi⟩, rfl, rfl, rfl, rfl⟩
  | quiet | relFailed => exact absurd hp ht
  | fault => exact absurd rfl ht
  | byte _ _ hp' | eos _ hp' | fold _ hp' | fin _ hp' | relHold _ hp' => simp [hp] at hp'

/-- A further fault in `FAILED` only adds to `FAULT`. -/
theorem faulted_of_failed {s : State} (hp : s.phase = .failed) (hne : s.primary ≠ 0#3) (bit : BitVec 6)
    (code : BitVec 3) : faulted bit code s = { s with fault := s.fault ||| bit } := by
  rw [faulted, if_neg hne, ← hp]

theorem failRelease_of_failed {s : State} (hp : s.phase = .failed) (hne : s.primary ≠ 0#3) :
    failRelease s = { s with
      fault := s.fault ||| (if s.relSeen then 0b010100#6 else 0b000100#6), relSeen := true } := by
  cases hr : s.relSeen with
  | false => exact (failRelease_of_unreported hr).trans (faulted_of_failed (s := { s with relSeen := true }) hp hne _ _)
  | true => rw [failRelease_of_reported hr, faulted_of_failed hp hne, if_pos rfl, ← hr]

theorem exec_rel_of_failed_next {s : State} (hp : s.phase = .failed) (hne : s.primary ≠ 0#3) :
    exec .rel s = .next (if s.relSeen then { s with fault := s.fault ||| 0b010000#6 }
      else { s with relSeen := true }) := by
  cases hr : s.relSeen with
  | false => exact exec_rel_of_failed hp hr
  | true =>
    rw [exec_of_outOfPhase (i := .rel) rfl (.inr (.inr (.inr ⟨hp, hr⟩))), faulted_of_failed hp hne, if_pos rfl, ← hr]

/-- Settles O14: the exits are cases of the edge's writes; each command in `FAILED` runs its rule or faults. -/
theorem failedIsAbsorbing : Obligations.FailedIsAbsorbing := by
  refine ⟨fun s t hp h ht => exit_of_failed hp h ht, fun s hp hne b => ?_⟩
  have ha : accepts s.phase := .inr (.inr (.inr (.inr hp)))
  refine ⟨?_, ?_, ?_, ?_, ?_, exec_rel_of_failed_next hp hne⟩
  · rw [exec_of_outOfPhase (i := .byte b) rfl (.inr (.inr (.inr hp))), faulted_of_failed hp hne]
  · rw [exec_of_outOfPhase (i := .eos) rfl (.inr (.inr (.inr hp))), faulted_of_failed hp hne]
  · rw [exec_failSrcUnavail_of_accepts ha, faulted_of_failed hp hne]
  · rw [exec_failReadFail_of_accepts ha, faulted_of_failed hp hne]
  · rw [exec_failReleaseFail_of_accepts ha, failRelease_of_failed hp hne]

/-! ### What the stream commands read (41_stream_commands.md R70, R72) -/

/-- Two states with the same `ACC`, `CNT` and `PHASE`. -/
def SameData (u t : State) : Prop := u.acc = t.acc ∧ u.cnt = t.cnt ∧ u.phase = t.phase

/-- The cell of a stream command is the same for both values of `REL_SEEN`, and its effect on `ACC`, `CNT` and `PHASE`
reads these and the configuration alone. -/
theorem streamCommand_sameData {i : Instr} {s u : State}
    (hi : (∃ g, i = .init g) ∨ (∃ b, i = .byte b) ∨ i = .eos) (hdata : SameData u s) (hcfg : u.cfg = s.cfg) :
    i.port = .host ∧ legality u.relSeen i u.phase = legality s.relSeen i s.phase ∧
      SameData (commandEffect i u) (commandEffect i s) := by
  obtain ⟨hacc, hcnt, hphase⟩ := hdata
  obtain ⟨g, rfl⟩ | ⟨b, rfl⟩ | rfl := hi
  · exact ⟨rfl, by rw [hphase]; rfl, rfl, rfl, rfl⟩
  · exact ⟨rfl, by rw [hphase]; rfl, by simp [SameData, commandEffect, counterFull, hacc, hcnt, hphase, hcfg]⟩
  · exact ⟨rfl, by rw [hphase]; rfl, hacc, hcnt, rfl⟩

theorem underVerdict_sameData {v : Verdict} {e e' s u t : State} (he : SameData e' e) (hs : SameData u s)
    (h : underVerdict v e s = .next t) : ∃ w, underVerdict v e' u = .next w ∧ SameData w t := by
  obtain ⟨rfl, rfl⟩ | ⟨rfl, rfl⟩ | ⟨rfl, rfl⟩ := underVerdict_next h
  · exact ⟨e', rfl, he⟩
  · exact ⟨raiseFault .protocol [] u, rfl, hs.1, hs.2.1, rfl⟩
  · exact ⟨u, rfl, hs⟩

theorem exec_stream_sameData {i : Instr} {s u t : State} (hi : (∃ g, i = .init g) ∨ (∃ b, i = .byte b) ∨ i = .eos)
    (hdata : SameData u s) (hcfg : u.cfg = s.cfg) (h : exec i s = .next t) :
    ∃ w, exec i u = .next w ∧ SameData w t := by
  obtain ⟨hport, hcell, heffect⟩ := streamCommand_sameData hi hdata hcfg
  rw [exec_host hport] at h ⊢
  rw [hcell]
  exact underVerdict_sameData heffect hdata h

/-- Settles O29: the same cell decides for both states, and what it lets happen agrees. -/
theorem streamCommandsReadNoStatus : Obligations.StreamCommandsReadNoStatus :=
  fun _ s _ _ _ _ _ hi h => exec_stream_sameData (s := s) hi ⟨rfl, rfl, rfl⟩ rfl h

/-- `INIT` overwrites every register, so only the model's own fields are left of the state before. -/
theorem startComputation_congr (g : Byte) {s t : State} (hcfg : s.cfg = t.cfg) (hport : s.port = t.port)
    (hfree : s.freeCtr = t.freeCtr) : startComputation g s = startComputation g t := by
  simp [startComputation, hcfg, hport, hfree]

theorem exec_init_of_startable {g : Byte} {s : State} (h : s.phase.startable = true) :
    exec (.init g) s = .next (startComputation g s) :=
  exec_of_legality_ok rfl (legalInit_ok.mpr (startable_iff.mp h))

/-- Settles O30: both outcomes are `startComputation`. -/
theorem initForgetsThePast : Obligations.InitForgetsThePast := by
  intro tag s t hs ht hcfg hport hfree
  rw [exec_init_of_startable hs, exec_init_of_startable ht, startComputation_congr tag hcfg hport hfree]

/-! ### When a digest is visible (43_completion_failure.md R84) -/

section Digest

variable {s t : State}

/-- Only the release report in `HOLD` leads to `DONE`, where every edge that stays is quiet. -/
theorem step_to_done (h : step s = .next t) (ht : t.phase = .done) :
    (s.phase = .done ∧ nextIssue s = .quiet ∧ t = s.tick) ∨
    (s.phase = .hold ∧ runs s .rel ∧ t = { s.tick with relSeen := true, phase := .done }) := by
  cases step_writes h with
  | quiet hq => exact .inl ⟨ht, hq, rfl⟩
  | relHold hi hp => exact .inr ⟨hp, hi, rfl⟩
  | byte _ _ hp | fold _ hp | relFailed _ hp => simp [hp] at ht
  | reset | start | eos | fin | fault => cases ht

/-- An accepted `FAIL` is a fault entry, whichever its cause. -/
theorem phase_of_fail (h : step s = .next t)
    (hi : runs s .failSrcUnavail ∨ runs s .failReadFail ∨ runs s .failReleaseFail) : t.phase = .failed := by
  obtain hi | hi | hi := hi
  · rw [failed_next (s := s.tick) (run_host_tick hi rfl) ((step_of_run hi).symm.trans h)]; rfl
  · rw [failed_next (s := s.tick) (run_host_tick hi rfl) ((step_of_run hi).symm.trans h)]; rfl
  · rw [step_of_failReleaseFail h hi]; rfl

end Digest

/-- Settles O49: the two ways into `DONE` keep `ACC` and start from a phase without a fault. -/
theorem digestOnlyOnCompleteSuccess : Obligations.DigestOnlyOnCompleteSuccess := by
  refine ⟨fun s t hinv h ht => ?_, fun s t h hi _ => ?_⟩
  · obtain ⟨hp, hq, rfl⟩ | ⟨hp, hi, rfl⟩ := step_to_done h (resultValid_true.mp ht)
    · exact ⟨(hinv.noFault (by simp [hp])).1, rfl, .inl ⟨resultValid_true.mpr hp, hq⟩⟩
    · exact ⟨(hinv.noFault (by simp [hp])).1, rfl, .inr ⟨hp, hi⟩⟩
  · exact digest?_of_not_valid (resultValid_false.mpr (by simp [phase_of_fail h hi]))

/-! ### What a final state shows (70_reset_and_hazards.md R119) -/

section FinalStates

variable {later : List HostDrive} {s : State}

theorem endedGood_iff : s.endedGood later = true ↔ s.phase = .done ∧ s.hostDone later = true := by
  simp [State.endedGood]

theorem endedFailed_iff : s.endedFailed later = true ↔ s.phase = .failed ∧ s.hostDone later = true := by
  simp [State.endedFailed]

theorem ended_iff : s.ended later = true ↔ (s.phase = .done ∨ s.phase = .failed) ∧ s.hostDone later = true := by
  simp [State.ended, endedGood_iff, endedFailed_iff, or_and_right]

theorem ended_of_phase (hd : s.phase ≠ .done) (hf : s.phase ≠ .failed) : s.ended later = false :=
  Bool.eq_false_iff.mpr fun h => (phase_of_ended h).elim hd hf

end FinalStates

/-- Settles O59: a good end is in `DONE`, a failed one in `FAILED`, and the invariants give the fault record there. -/
theorem finalStatesShowTheOutcome : Obligations.FinalStatesShowTheOutcome := by
  refine fun later s hinv => ⟨fun h => ?_, fun h => ?_, fun hp => ?_⟩
  · have hp := (endedGood_iff.mp h).1
    exact ⟨(hinv.noFault (by simp [hp])).1, resultValid_true.mpr hp, resultPort_of_done hp⟩
  · have hp := (endedFailed_iff.mp h).1
    have hprimary := hinv.primaryIffFailed.mpr hp
    have hinvalid : resultValid s = false := resultValid_false.mpr (by simp [hp])
    exact ⟨hinv.faultIffPrimary.mpr hprimary, hprimary, hinvalid, resultPort_of_not_valid hinvalid,
      digest?_of_not_valid hinvalid⟩
  · refine ended_of_phase ?_ ?_ <;> obtain hp | hp | hp | hp := hp <;> simp [hp]

end Sys2Proof.Machine

/-! Several cores (60_exceptions.md R107): a step of one is a write of one place of the list. -/

namespace Sys2Proof.Machine

/-- What a step of core `k` answers: nothing where there is no such core, else that core's next state in its place. -/
theorem stepAt_next_iff {k : Nat} {sys sys' : System} : System.stepAt k sys = .next sys' ↔
    (sys[k]? = none ∧ sys' = sys) ∨ ∃ s t, sys[k]? = some s ∧ step s = .next t ∧ sys' = sys.set k t := by
  unfold System.stepAt
  cases hk : sys[k]? with
  | none => simp [eq_comm]
  | some s => cases hs : step s <;> simp [eq_comm, hs]

theorem getElem?_of_stepAt {k j : Nat} {sys sys' : System} (h : System.stepAt k sys = .next sys') (hne : j ≠ k) :
    sys'[j]? = sys[j]? := by
  obtain ⟨-, rfl⟩ | ⟨s, t, -, -, rfl⟩ := stepAt_next_iff.mp h
  · rfl
  · exact List.getElem?_set_ne hne.symm

/-- Settles O54: a core reads and writes its own place alone, and writes of two places commute. -/
theorem instancesAreIndependent : Obligations.InstancesAreIndependent := by
  refine ⟨fun sys sys' k j h hne => getElem?_of_stepAt h hne, fun sys a b k j hne hk hj => ?_⟩
  have hsame := getElem?_of_stepAt hk hne
  obtain ⟨hnone, rfl⟩ | ⟨s, t, hs, ht, rfl⟩ := stepAt_next_iff.mp hj
  · exact ⟨sys, stepAt_next_iff.mpr (.inl ⟨hsame ▸ hnone, rfl⟩), hk⟩
  · refine ⟨sys.set j t, stepAt_next_iff.mpr (.inr ⟨s, t, hsame ▸ hs, ht, rfl⟩), ?_⟩
    obtain ⟨hnone, rfl⟩ | ⟨s', t', hs', ht', rfl⟩ := stepAt_next_iff.mp hk
    · exact stepAt_next_iff.mpr (.inl ⟨(List.getElem?_set_ne hne).trans hnone, rfl⟩)
    · exact stepAt_next_iff.mpr (.inr ⟨s', t', (List.getElem?_set_ne hne).trans hs', ht', List.set_comm _ _ hne.symm⟩)

end Sys2Proof.Machine

/-! The table and the update as linear maps over GF(2) (10_state.md R24 to R26, 40_update_datapath.md R62 to R66): a
step of the feedback shift register is linear and leads to 0 from 0 alone; eight of them are the table and the update. -/

namespace Sys2Proof.Machine

open Sys2Proof.Claims

/-! ### One step of the feedback shift register (R24, R64) -/

/-- What the feedback adds to the shifted register. -/
def feedback (f : Bool) : Word := if f then poly else 0#32

theorem feedback_xor (f g : Bool) : feedback (f ^^ g) = feedback f ^^^ feedback g := by
  cases f <;> cases g <;> decide

theorem lfsrBit_eq (r : Word) (d : Bool) : lfsrBit r d = (r <<< 1) ^^^ feedback (r.msb ^^ d) := by
  unfold lfsrBit feedback
  split <;> simp

/-- A round of R24 is a step with the input bit 0. -/
theorem lfsrBit_false (r : Word) : lfsrBit r false = romGenRound r := by
  simp [lfsrBit, romGenRound]

theorem lfsrBit_xor (r r' : Word) (d d' : Bool) :
    lfsrBit (r ^^^ r') (d ^^ d') = lfsrBit r d ^^^ lfsrBit r' d' := by
  have hbits : (r.msb ^^ r'.msb ^^ (d ^^ d')) = ((r.msb ^^ d) ^^ (r'.msb ^^ d')) := by
    rw [Bool.xor_assoc, Bool.xor_assoc, Bool.xor_left_comm d]
  rw [lfsrBit_eq, lfsrBit_eq, lfsrBit_eq, BitVec.msb_xor, hbits, feedback_xor, BitVec.shiftLeft_xor_distrib]
  ac_rfl

/-- The bit shifted in is 0 and bit 0 of `POLY` is 1, so a round that leads to 0 had no feedback and lost nothing. -/
theorem eq_zero_of_romGenRound {r : Word} (h : romGenRound r = 0#32) : r = 0#32 := by
  unfold romGenRound at h
  split at h
  · have hlow : ((r <<< 1) ^^^ poly).getLsbD 0 = true := by simp; decide
    rw [h] at hlow
    cases hlow
  next hmsb =>
    have hlt : 2 * r.toNat < 2 ^ 32 := BitVec.msb_eq_false_iff_two_mul_lt.mp (Bool.not_eq_true _ ▸ hmsb)
    have hval : r.toNat <<< 1 % 2 ^ 32 = 0 := by rw [← BitVec.toNat_shiftLeft, h]; rfl
    exact BitVec.eq_of_toNat_eq (by rw [Nat.shiftLeft_eq] at hval; simp; omega)

/-! ### Eight steps -/

theorem updSerial_xor (a a' : Word) (b b' : Byte) :
    updSerial (a ^^^ a') (b ^^^ b') = updSerial a b ^^^ updSerial a' b' := by
  simp only [updSerial, List.foldl_cons, List.foldl_nil, BitVec.getLsbD_xor, lfsrBit_xor]

theorem updSerial_zero (a : Word) : updSerial a 0#8 = Nat.repeat romGenRound 8 a := by
  simp [updSerial, lfsrBit_false, Nat.repeat]

/-- A register below `2^(32 - k)` loses no bit in `k` rounds: no feedback happens. -/
theorem repeat_romGenRound_of_lt (k : Nat) {r : Word} (h : r.toNat * 2 ^ k < 2 ^ 32) :
    Nat.repeat romGenRound k r = r <<< k := by
  induction k with
  | zero => simp [Nat.repeat]
  | succ k ih =>
    have hlt : r.toNat * 2 ^ k < 2 ^ 31 := by rw [Nat.pow_succ, ← Nat.mul_assoc] at h; omega
    have hval : (r <<< k).toNat = r.toNat * 2 ^ k := by
      rw [BitVec.toNat_shiftLeft, Nat.shiftLeft_eq, Nat.mod_eq_of_lt (by omega)]
    have hmsb : (r <<< k).msb = false := by
      rw [BitVec.msb_eq_decide, hval]
      exact decide_eq_false (Nat.not_le.mpr hlt)
    rw [Nat.repeat, ih (by omega), romGenRound, hmsb, BitVec.shiftLeft_add]
    rfl

/-- A byte in the top of the register is cancelled by the same byte shifted in: a closed fact for each of 256 bytes. -/
theorem updSerial_cancel : ∀ b : Byte, updSerial (b ++ 0#24) b = 0#32 := by
  decide +kernel

/-- The top byte and the rest of the register. -/
theorem top_append_low (a : Word) : a.extractLsb' 24 8 ++ a.extractLsb' 0 24 = a :=
  (BitVec.extractLsb'_append_extractLsb'_eq_extractLsb' rfl).trans BitVec.extractLsb'_eq_self

/-! ### The table is eight steps from the top byte, and the update eight steps with the byte shifted in (R24, R64) -/

theorem rom_eq_updSerial (i : Byte) : rom i = updSerial (i ++ 0#24) 0#8 := by
  rw [updSerial_zero, romIsTheGeneratedTable i, romGen]

/-- The bits shifted in act as if they stood in the top byte from the start. -/
theorem updSerial_eq_of_top (a : Word) (b : Byte) : updSerial a b = updSerial (a ^^^ (b ++ 0#24)) 0#8 := by
  have hsplit := updSerial_xor a (b ++ 0#24) b b
  rw [BitVec.xor_self, updSerial_cancel, BitVec.xor_zero] at hsplit
  exact hsplit.symm

/-- With the index in the top byte, eight steps look up one table word and shift the low 24 bits up. -/
theorem updSerial_index_xor_low (i : Byte) (low : BitVec 24) :
    updSerial ((i ++ 0#24) ^^^ (0#8 ++ low)) 0#8 = (low ++ 0#8) ^^^ rom i := by
  have hlow : (0#8 ++ low).toNat = low.toNat := by rw [BitVec.toNat_append]; simp
  have hshift : (0#8 ++ low) <<< 8 = low ++ 0#8 := by
    rw [← extractLsb'_append_zero_eq_shiftLeft, BitVec.extractLsb'_append_eq_right]
  have hsplit := updSerial_xor (i ++ 0#24) (0#8 ++ low) 0#8 0#8
  rw [BitVec.xor_self, ← rom_eq_updSerial, updSerial_zero (0#8 ++ low),
    repeat_romGenRound_of_lt 8 (by rw [hlow]; omega), hshift] at hsplit
  rw [hsplit, BitVec.xor_comm]

theorem updSerial_eq_upd (a : Word) (b : Byte) : updSerial a b = upd a b := by
  have hindex : a ^^^ (b ++ 0#24) = (updIndex a b ++ 0#24) ^^^ (0#8 ++ a.extractLsb' 0 24) := by
    rw [BitVec.xor_append, BitVec.xor_zero, BitVec.zero_xor]
    conv_lhs => rw [← top_append_low a]
    exact BitVec.xor_append.trans (by rw [BitVec.xor_zero, updIndex])
  rw [updSerial_eq_of_top, hindex, updSerial_index_xor_low, upd]

/-- Settles O41: the byte shifted in acts as the index does, and eight rounds from the index are the table word. -/
theorem feedbackRegisterEqualsTable : Obligations.FeedbackRegisterEqualsTable := updSerial_eq_upd

/-! ### The laws of the update (R65) -/

theorem upd_xor (a a' : Word) (b b' : Byte) : upd (a ^^^ a') (b ^^^ b') = upd a b ^^^ upd a' b' := by
  simp only [← updSerial_eq_upd, updSerial_xor]

theorem eq_zero_of_repeat_romGenRound (k : Nat) {r : Word} (h : Nat.repeat romGenRound k r = 0#32) : r = 0#32 := by
  induction k with
  | zero => exact h
  | succ k ih => exact ih (eq_zero_of_romGenRound h)

theorem upd_zero_left (b : Byte) : upd 0#32 b = rom b := by
  rw [← updSerial_eq_upd, updSerial_eq_of_top, BitVec.zero_xor, rom_eq_updSerial]

theorem eq_zero_of_upd_zero {a : Word} (h : upd a 0#8 = 0#32) : a = 0#32 := by
  rw [← updSerial_eq_upd, updSerial_zero] at h
  exact eq_zero_of_repeat_romGenRound 8 h

theorem eq_zero_of_rom {i : Byte} (h : rom i = 0#32) : i = 0#8 := by
  rw [rom_eq_updSerial, updSerial_zero] at h
  have htop : i ++ 0#24 = 0#8 ++ 0#24 := eq_zero_of_repeat_romGenRound 8 h
  simpa only [BitVec.extractLsb'_append_eq_left] using congrArg (BitVec.extractLsb' 24 8) htop

/-- A map that takes exclusive-OR to exclusive-OR is injective when it takes only 0 to 0. -/
theorem injective_of_xor {v w : Nat} {f : BitVec v → BitVec w} (hf : ∀ x y, f (x ^^^ y) = f x ^^^ f y)
    (hker : ∀ x, f x = 0#w → x = 0#v) : Function.Injective f := by
  intro x y h
  have hzero := hker (x ^^^ y) (by rw [hf, h, BitVec.xor_self])
  exact BitVec.xor_eq_zero_iff.mp hzero

theorem rom_xor (i j : Byte) : rom (i ^^^ j) = rom i ^^^ rom j := by
  simpa only [upd_zero_left, BitVec.xor_zero] using upd_xor 0#32 0#32 i j

theorem rom_injective : Function.Injective rom := injective_of_xor rom_xor fun _ => eq_zero_of_rom

theorem upd_injective_left (b : Byte) : Function.Injective (fun a : Word => upd a b) := by
  intro a a' h
  have hzero : upd (a ^^^ a') 0#8 = 0#32 := by
    have hsplit := upd_xor a a' b b
    rwa [BitVec.xor_self, show upd a b = upd a' b from h, BitVec.xor_self] at hsplit
  exact BitVec.xor_eq_zero_iff.mp (eq_zero_of_upd_zero hzero)

theorem upd_injective_right (a : Word) : Function.Injective (fun b : Byte => upd a b) := by
  intro b b' h
  have hzero : rom (b ^^^ b') = 0#32 := by
    have hsplit := upd_xor a a b b'
    rwa [BitVec.xor_self, upd_zero_left, show upd a b = upd a b' from h, BitVec.xor_self] at hsplit
  exact BitVec.xor_eq_zero_iff.mp (eq_zero_of_rom hzero)

/-- Settles O42: the linear map of eight steps takes only 0 to 0, in the accumulator and in the byte. -/
theorem updLaws : Obligations.UpdLaws :=
  ⟨upd_xor, by decide, upd_zero_left, fun b => Finite.injective_iff_bijective.mp (upd_injective_left b),
    upd_injective_right⟩

/-! ### The checks on the table (R26) -/

/-- A table word with top byte 0 is that of index 0: a closed fact over the 256 entries. -/
theorem eq_zero_of_rom_top : ∀ i : Byte, (rom i).extractLsb' 24 8 = 0#8 → i = 0#8 := by
  decide +kernel

theorem rom_top_bijective : Function.Bijective (fun i : Byte => (rom i).extractLsb' 24 8) :=
  Finite.injective_iff_bijective.mp
    (injective_of_xor (fun i j => by rw [rom_xor, BitVec.extractLsb'_xor]) eq_zero_of_rom_top)

/-- The exclusive-OR and the sum of the listed words, evaluated. -/
theorem rom_checksums : ((List.range 256).map (fun n => rom (BitVec.ofNat 8 n))).foldl (· ^^^ ·) 0#32 = 0#32 ∧
    ((List.range 256).map (fun n => rom (BitVec.ofNat 8 n))).foldl (· + ·) 0#32 = 0xFFFFFF80#32 := by
  decide +kernel

/-- Settles O37: the table is linear and takes only 0 to 0; its named entries and its sums are evaluated. -/
theorem romPassesTheChecks : Obligations.RomPassesTheChecks :=
  ⟨by decide, rom_xor, by decide, rom_injective, rom_top_bijective, rom_checksums⟩

/-! ### Sign extension and the kind of shift (R62) -/

theorem setWidth_signExtend_byte {n : Nat} (b : Byte) (hn : 8 ≤ n) : (b.signExtend n).setWidth 8 = b := by
  ext k hk
  have hlt : k < n := by omega
  simp [BitVec.getElem_signExtend, hk, hlt]

theorem setWidth_setWidth_byte {n : Nat} (b : Byte) (hn : 8 ≤ n) : (b.setWidth n).setWidth 8 = b := by
  rw [BitVec.setWidth_setWidth_of_le b hn, BitVec.setWidth_eq]

/-- The low byte after a shift by 24 is the accumulator's top byte, whatever fills from above. -/
theorem setWidth_sshiftRight_eq_ushiftRight (a : Word) : (a.sshiftRight 24).setWidth 8 = (a >>> 24).setWidth 8 := by
  ext k hk
  have hlt : 24 + k < 32 := by omega
  simp [BitVec.getLsbD_sshiftRight, hlt]
  omega

/-- Settles O40: only the low 8 bits count, and there both extensions and both shifts agree. -/
theorem signedByteHasNoEffect : Obligations.SignedByteHasNoEffect := by
  refine ⟨fun n x b hn => ⟨?_, ?_⟩, fun a b => ⟨?_, ?_⟩⟩
  · rw [BitVec.setWidth_xor, setWidth_signExtend_byte b hn]
  · rw [BitVec.setWidth_xor, setWidth_setWidth_byte b hn]
  · rw [BitVec.setWidth_xor, setWidth_signExtend_byte b (by decide), setWidth_sshiftRight_eq_ushiftRight,
      updIndex_eq_ushiftRight]
  · rw [BitVec.setWidth_xor, setWidth_setWidth_byte b (by decide), updIndex_eq_ushiftRight]

end Sys2Proof.Machine

/-! The table as polynomial remainders over GF(2) (40_update_datapath.md R66): a round of R24 multiplies by `X` modulo
`G = X^32 + POLY`. -/

namespace Sys2Proof.Machine

open Sys2Proof.Claims Polynomial

/-! ### The polynomial of a bit vector -/

theorem polyOf_eq_sum {w : Nat} (v : BitVec w) :
    polyOf v = ∑ k ∈ Finset.range w, if v.getLsbD k then (X : (ZMod 2)[X]) ^ k else 0 := by
  simp only [polyOf, Finset.sum, Finset.range_val, Multiset.range, Multiset.map_coe, Multiset.sum_coe, List.sum,
    List.foldr_map]

/-- Its coefficients are the bits, which are 0 from the width on. -/
theorem coeff_polyOf {w : Nat} (v : BitVec w) (k : Nat) : (polyOf v).coeff k = if v.getLsbD k then 1 else 0 := by
  have hterm : ∀ j, (if v.getLsbD j then (X : (ZMod 2)[X]) ^ j else 0).coeff k =
      if k = j then (if v.getLsbD k then 1 else 0) else 0 := by
    intro j
    by_cases hj : k = j
    · subst hj; split <;> simp
    · split <;> simp [coeff_X_pow, hj]
  rw [polyOf_eq_sum, finsetSum_coeff, Finset.sum_congr rfl fun j _ => hterm j, Finset.sum_ite_eq]
  split
  · rfl
  next hk => simp [BitVec.getLsbD_of_ge v k (by simpa using hk)]

theorem polyOf_xor {w : Nat} (u v : BitVec w) : polyOf (u ^^^ v) = polyOf u + polyOf v := by
  ext k
  rw [coeff_add, coeff_polyOf, coeff_polyOf, coeff_polyOf, BitVec.getLsbD_xor]
  cases u.getLsbD k <;> cases v.getLsbD k <;> decide

theorem polyOf_append_zero {w : Nat} (v : BitVec w) (n : Nat) : polyOf (v ++ 0#n) = polyOf v * X ^ n := by
  ext k
  rw [coeff_mul_X_pow', coeff_polyOf, coeff_polyOf, BitVec.getLsbD_append]
  by_cases hk : k < n
  · simp [hk]
  · simp [hk, Nat.not_lt.mp hk]

theorem getLsbD_shiftLeft_one (r : Word) (k : Nat) : (r <<< 1).getLsbD (k + 1) = (decide (k < 31) && r.getLsbD k) := by
  have hlt : k + 1 < 32 ↔ k < 31 := Nat.succ_lt_succ_iff
  rw [BitVec.getLsbD_shiftLeft]
  simp [hlt]

/-- Multiplying by `X` is a shift by one place, and the bit shifted out becomes the coefficient of `X^32`. -/
theorem polyOf_mul_X (r : Word) : polyOf r * X = polyOf (r <<< 1) + if r.msb then X ^ 32 else 0 := by
  have hout : ∀ k, (if r.msb then (X : (ZMod 2)[X]) ^ 32 else 0).coeff k = if k = 32 ∧ r.msb then 1 else 0 := by
    intro k
    cases r.msb <;> simp [coeff_X_pow]
  ext k
  rw [coeff_add, hout]
  cases k with
  | zero => simp [coeff_polyOf]
  | succ k =>
    rw [coeff_mul_X, coeff_polyOf, coeff_polyOf, getLsbD_shiftLeft_one, BitVec.msb_eq_getLsbD_last]
    obtain hk | rfl | hk := Nat.lt_trichotomy k 31
    · simp [hk, hk.ne]
    · simp
    · simp [BitVec.getLsbD_of_ge r k hk, hk.ne']

/-! ### The rounds as divisions by `G` -/

/-- `G(x) = x^32 + POLY(x)` (R66). -/
noncomputable def generator : (ZMod 2)[X] := X ^ 32 + polyOf poly

theorem polyOf_romGenRound (r : Word) :
    polyOf r * X = (if r.msb then generator else 0) + polyOf (romGenRound r) := by
  rw [polyOf_mul_X, romGenRound]
  split
  · rw [polyOf_xor, generator]
    linear_combination -CharTwo.add_self_eq_zero (polyOf poly)
  · rw [add_zero, zero_add]

theorem polyOf_repeat_romGenRound (k : Nat) (r : Word) :
    ∃ q, polyOf r * X ^ k = q * generator + polyOf (Nat.repeat romGenRound k r) := by
  induction k with
  | zero => exact ⟨0, by simp [Nat.repeat]⟩
  | succ k ih =>
    obtain ⟨q, hq⟩ := ih
    refine ⟨q * X + if (Nat.repeat romGenRound k r).msb then 1 else 0, ?_⟩
    rw [pow_succ, ← mul_assoc, hq, add_mul, polyOf_romGenRound, Nat.repeat, add_mul, mul_right_comm, add_assoc,
      ite_mul, one_mul, zero_mul]

/-- Settles O38: `i(x) * x^32` is eight rounds from the polynomial of `i` in the top byte. -/
theorem romRowIsPolynomialRemainder : Obligations.RomRowIsPolynomialRemainder := by
  intro i
  obtain ⟨q, hq⟩ := polyOf_repeat_romGenRound 8 (i ++ 0#24)
  refine ⟨q, ?_⟩
  rw [romIsTheGeneratedTable i, romGen, ← generator, ← hq, polyOf_append_zero, mul_assoc, ← pow_add]

end Sys2Proof.Machine

/-! The fold of a count (20_memory.md R36, 42_fold_finalize.md R75): its number of steps and its bytes. -/

namespace Sys2Proof.Machine

theorem foldSteps_zero : foldSteps 0 = 0 := rfl

theorem foldSteps_of_ne_zero {n : Nat} (h : n ≠ 0) : foldSteps n = 1 + foldSteps (n >>> 8) := by
  cases n with
  | zero => exact absurd rfl h
  | succ n =>
    have hlt := shiftRight_eight_lt h
    rw [foldSteps, foldStepsFrom, if_neg h, foldSteps, foldStepsFrom_bound (Nat.le_of_lt_succ hlt) le_rfl]

/-- At most `k` bytes are folded exactly where the count fits `k` bytes. -/
theorem foldSteps_le_iff {n k : Nat} : foldSteps n ≤ k ↔ n < 2 ^ (8 * k) := by
  induction k generalizing n with
  | zero =>
    by_cases hn : n = 0
    · simp [hn, foldSteps_zero]
    · simp [foldSteps_of_ne_zero hn, hn]
  | succ k ih =>
    by_cases hn : n = 0
    · simp [hn, foldSteps_zero]
    · have hpow : 2 ^ (8 * (k + 1)) = 2 ^ (8 * k) * 256 := by rw [Nat.mul_succ, Nat.pow_add]
      rw [foldSteps_of_ne_zero hn, Nat.add_comm, Nat.succ_le_succ_iff, ih, Nat.shiftRight_eq_div_pow, hpow,
        Nat.div_lt_iff_lt_mul (by decide)]

theorem foldSteps_eq_size (n : Nat) : foldSteps n = (Nat.size n + 7) / 8 := by
  refine eq_of_forall_ge_iff fun k => ?_
  rw [foldSteps_le_iff, ← Nat.size_le]
  omega

theorem foldSteps_le_of_lt {n w : Nat} (h : n < 2 ^ w) : foldSteps n ≤ (w + 7) / 8 :=
  foldSteps_le_iff.mpr (h.trans_le (Nat.pow_le_pow_right (by decide) (by omega)))

theorem ofNat_mod_256 (n : Nat) : BitVec.ofNat 8 (n % 256) = BitVec.ofNat 8 n :=
  BitVec.eq_of_toNat_eq (by simp)

/-- Each fold takes the least significant base-256 digit that is left. -/
theorem foldLen_eq_foldl_digits (a : Word) (n : Nat) :
    foldLen a n = ((Nat.digits 256 n).map (BitVec.ofNat 8)).foldl upd a := by
  induction n using Nat.strong_induction_on generalizing a with
  | h n ih =>
    by_cases hn : n = 0
    · simp [hn]
    · have hshift : n >>> 8 = n / 256 := Nat.shiftRight_eq_div_pow n 8
      rw [foldLen_succ a hn, ih _ (shiftRight_eight_lt hn), hshift,
        Nat.digits_def' (by decide) (Nat.pos_of_ne_zero hn), List.map_cons, List.foldl_cons, ofNat_mod_256]

/-- Settles O44: the steps by the bound on the count's bytes, the bytes by the digits' recursion. -/
theorem foldTakesTheCountsBytes : Obligations.FoldTakesTheCountsBytes :=
  ⟨⟨foldSteps_zero, fun _ => foldSteps_of_ne_zero⟩, foldSteps_eq_size, fun _ _ => foldSteps_le_of_lt,
    foldLen_eq_foldl_digits⟩

end Sys2Proof.Machine

/-! Runs through phases: pieces of a computation, each with the phase that its states before the last are in. -/

namespace Sys2Proof.Machine

open Sys2Proof.Claims

/-! ### Runs and their pieces -/

/-- The `k` edges from `s` lead to `t`, and the phase of every state before `t` meets `P`. -/
def RunIn (P : Phase → Prop) (k : Nat) (s t : State) : Prop :=
  runFrom k s = .next t ∧ ∀ j, j < k → ∃ u, runFrom j s = .next u ∧ P u.phase

section Pieces

variable {P Q : Phase → Prop} {j k : Nat} {s t u : State}

theorem RunIn.refl (P : Phase → Prop) (s : State) : RunIn P 0 s s := ⟨rfl, fun _ h => absurd h (Nat.not_lt_zero _)⟩

theorem RunIn.cons (hp : P s.phase) (h : step s = .next u) (hrun : RunIn P k u t) : RunIn P (k + 1) s t := by
  refine ⟨(runFrom_next h).trans hrun.1, fun j hj => ?_⟩
  cases j with
  | zero => exact ⟨s, rfl, hp⟩
  | succ j => rw [runFrom_next h]; exact hrun.2 j (Nat.lt_of_succ_lt_succ hj)

theorem RunIn.single (hp : P s.phase) (h : step s = .next t) : RunIn P 1 s t := .cons hp h (.refl P t)

theorem RunIn.trans (h : RunIn P j s u) (h' : RunIn P k u t) : RunIn P (j + k) s t := by
  refine ⟨(runFrom_add k h.1).trans h'.1, fun i hi => ?_⟩
  by_cases hij : i < j
  · exact h.2 i hij
  · have hsplit := runFrom_add (i - j) h.1
    rw [Nat.add_sub_cancel' (Nat.not_lt.mp hij)] at hsplit
    rw [hsplit]
    exact h'.2 (i - j) (by omega)

theorem RunIn.mono (hPQ : ∀ p, P p → Q p) (h : RunIn P k s t) : RunIn Q k s t :=
  ⟨h.1, fun j hj => (h.2 j hj).imp fun _ hu => ⟨hu.1, hPQ _ hu.2⟩⟩

theorem runFrom_succ_next (h : runFrom (k + 1) s = .next t) : ∃ u, step s = .next u ∧ runFrom k u = .next t := by
  rw [runFrom_succ] at h
  split at h
  next u hu => exact ⟨u, hu, h⟩
  · cases h
  · cases h

/-- Every edge, a reset too, moves the port by one drive and keeps the configuration. -/
theorem step_port_cfg (h : step s = .next t) : t.port = s.port.tail ∧ t.cfg = s.cfg := by
  cases step_writes h <;> exact ⟨rfl, rfl⟩

theorem runFrom_port_cfg (h : runFrom k s = .next t) : t.port = s.port.drop k ∧ t.cfg = s.cfg := by
  induction k generalizing s with
  | zero => cases h; exact ⟨rfl, rfl⟩
  | succ k ih =>
    obtain ⟨u, hu, hrun⟩ := runFrom_succ_next h
    obtain ⟨hport, hcfg⟩ := step_port_cfg hu
    obtain ⟨hport', hcfg'⟩ := ih hrun
    exact ⟨by rw [hport', hport, List.drop_tail], hcfg'.trans hcfg⟩

/-- No reset among the first `k` drives: none on the coming edge of any state within `k` edges. -/
theorem drive_rst_of_runFrom (h : runFrom j s = .next u) (hj : j < k) (hrst : ∀ d ∈ s.port.take k, d.rst = false) :
    u.drive.rst = false := by
  rw [State.drive, (runFrom_port_cfg h).1]
  cases hd : s.port.drop j with
  | nil => rfl
  | cons d ds =>
    have hget : s.port[j]? = some d := by rw [← List.head?_drop, hd]; rfl
    exact hrst d (List.mem_of_getElem? ((List.getElem?_take_of_lt hj).trans hget))

end Pieces

/-! ### Silence, and a command after it -/

section Commands

variable {s : State} {pre rest : List HostDrive}

theorem silent_run (hf : s.phase ≠ .folding) (hpre : ∀ d ∈ pre, d.silent = true) (hport : s.port = pre ++ rest) :
    RunIn (· = s.phase) pre.length s { s with port := rest } := by
  induction pre generalizing s with
  | nil => rw [← show s.port = rest from hport]; exact .refl _ s
  | cons d pre ih =>
    obtain ⟨hd, hpre⟩ := List.forall_mem_cons.mp hpre
    have hstep := step_silent hf (by rwa [drive_of_port hport])
    rw [tick_of_port hport] at hstep
    exact .cons rfl hstep (ih (s := { s with port := pre ++ rest }) hf hpre rfl)

/-- A command whose cell lets it run, presented after a pause. -/
theorem command_run {i : Instr} (hi : i.port = .host) (ha : accepts s.phase) (hv : legality s.relSeen i s.phase = .ok)
    (hpre : ∀ d ∈ pre, d.silent = true) (hport : s.port = pre ++ HostDrive.present (encode i) :: rest) :
    RunIn (· = s.phase) (pre.length + 1) s (commandEffect i { s with port := rest }) :=
  (silent_run (accepts_iff.mp ha).1 hpre hport).trans
    (.single rfl (step_of_presented (s := { s with port := HostDrive.present (encode i) :: rest }) hi ha hv rfl))

end Commands

/-- Where the presented drives are a command's and others', the drives are a pause, the command, and the rest. -/
theorem split_at_command {i : Instr} {is : List Instr} {ds : List HostDrive}
    (h : ds.filter (fun d => !d.silent) = presentAll (i :: is)) :
    ∃ pre post, ds = pre ++ HostDrive.present (encode i) :: post ∧ (∀ d ∈ pre, d.silent = true) ∧
      post.filter (fun d => !d.silent) = presentAll is := by
  obtain ⟨pre, post, hds, hpre, -, hpost⟩ := List.filter_eq_cons_iff.mp h
  exact ⟨pre, post, hds, fun d hd => by simpa using hpre d hd, hpost⟩

theorem filter_presentAll (is : List Instr) : (presentAll is).filter (fun d => !d.silent) = presentAll is := by
  rw [List.filter_eq_self]
  intro d hd
  obtain ⟨i, -, rfl⟩ := List.mem_map.mp hd
  rfl

@[simp] theorem presentAll_length (is : List Instr) : (presentAll is).length = is.length := List.length_map _

/-! ### The stream (41_stream_commands.md R71) -/

/-- `BYTE`s among pauses, as many as the counter has room for. -/
theorem bytes_run {s : State} {bs : List Byte} {ds rest : List HostDrive} (hp : s.phase = .consuming)
    (hle : s.cnt + bs.length ≤ 2 ^ s.cfg.cntW - 1) (hds : ds.filter (fun d => !d.silent) = presentAll (bs.map .byte))
    (hport : s.port = ds ++ rest) :
    RunIn (· = .consuming) ds.length s
      { s with acc := bs.foldl upd s.acc, cnt := s.cnt + bs.length, port := rest } := by
  induction bs generalizing s ds with
  | nil =>
    have hsilent : ∀ d ∈ ds, d.silent = true := by simpa using List.filter_eq_nil_iff.mp hds
    simpa [hp] using silent_run (by simp [hp]) hsilent hport
  | cons b bs ih =>
    rw [List.length_cons] at hle
    obtain ⟨pre, post, rfl, hpre, hpost⟩ := split_at_command hds
    have hcommand := command_run (i := .byte b) rfl (.inr (.inl hp)) (legalStream_ok.mpr hp) hpre
      (hport.trans (by rw [List.append_assoc, List.cons_append]))
    rw [commandEffect, accumulate_of_cnt_lt (by simp only; omega)] at hcommand
    have hrest := ih (s := { s with acc := upd s.acc b, cnt := s.cnt + 1, port := post ++ rest }) hp
      (by simp only; omega) hpost rfl
    have hlen : (pre ++ HostDrive.present (encode (.byte b)) :: post).length = pre.length + 1 + post.length := by
      rw [List.length_append, List.length_cons]; omega
    have hcnt : s.cnt + 1 + bs.length = s.cnt + (b :: bs).length := by rw [List.length_cons]; omega
    rw [hlen, List.foldl_cons, ← hcnt]
    exact (hcommand.mono fun _ hsame => hsame.trans hp).trans hrest

/-- `s` after `INIT` and the bytes of a stream (R71), with `rest` left on the port. -/
def consumed (tag : Byte) (bs : List Byte) (rest : List HostDrive) (s : State) : State :=
  { s with
    acc := accOf bs, cnt := bs.length, fault := 0#6, primary := 0#3, relSeen := false, tag := tag,
    phase := .consuming, port := rest }

theorem bytes_run_of_start {s : State} {tag : Byte} {bs : List Byte} {ds rest : List HostDrive}
    (hle : bs.length ≤ 2 ^ s.cfg.cntW - 1) (hds : ds.filter (fun d => !d.silent) = presentAll (bs.map .byte)) :
    RunIn (· = .consuming) ds.length (startComputation tag { s with port := ds ++ rest }) (consumed tag bs rest s) := by
  have hrun := bytes_run (s := startComputation tag { s with port := ds ++ rest }) rfl (by simpa using hle) hds rfl
  rwa [startComputation_cnt, Nat.zero_add] at hrun

/-- Settles O55: a pause, `INIT`, and the `BYTE`s with their pauses. -/
theorem pausesBetweenCommandsChangeNothing : Obligations.PausesBetweenCommandsChangeNothing := by
  intro s tag bs ds rest hs hle hds hport
  obtain ⟨pre, post, rfl, hpre, hpost⟩ := split_at_command hds
  have hinit := command_run (i := .init tag) rfl (accepts_of_startable hs) (legalInit_ok.mpr (startable_iff.mp hs)) hpre
    (hport.trans (by rw [List.append_assoc, List.cons_append]))
  have hbytes := bytes_run_of_start (tag := tag) (rest := rest) hle hpost
  have hlen : (pre ++ HostDrive.present (encode (.init tag)) :: post).length = pre.length + 1 + post.length := by
    rw [List.length_append, List.length_cons]; omega
  rw [hlen]
  exact (runFrom_add _ hinit.1).trans hbytes.1

/-- Settles O43: the schedule without pauses. -/
theorem countingLaw : Obligations.CountingLaw := by
  intro s tag bs rest hs hle hport
  have hrun := pausesBetweenCommandsChangeNothing s tag bs _ rest hs hle (filter_presentAll _) hport
  rwa [presentAll_length, List.length_cons, List.length_map] at hrun

/-! ### The fold and the finalization (42_fold_finalize.md R77, R121) -/

theorem step_fold {s : State} (hr : s.drive.rst = false) (hp : s.phase = .folding) (hc : s.cnt ≠ 0) :
    step s = .next { s.tick with acc := upd s.acc (foldByte s), cnt := shiftedCount s } := by
  rw [step_folding hr hp, if_neg hc]
  exact exec_fold_of_folding hp hc

/-- No reset among the next drives: none on the coming edge, and none among the next of the port past it. -/
theorem rst_of_take_succ {s : State} {n : Nat} (h : ∀ d ∈ s.port.take (n + 1), d.rst = false) :
    s.drive.rst = false ∧ ∀ d ∈ s.port.tail.take n, d.rst = false := by
  rw [State.drive]
  cases hport : s.port with
  | nil => simp [HostDrive.none]
  | cons d ds =>
    rw [hport, List.take_succ_cons] at h
    exact List.forall_mem_cons.mp h

theorem fold_run {s : State} (hp : s.phase = .folding)
    (hrst : ∀ d ∈ s.port.take (foldSteps s.cnt + 1), d.rst = false) :
    RunIn (· = .folding) (foldSteps s.cnt + 1) s { s with
      acc := ~~~ foldLen s.acc s.cnt, cnt := 0, phase := .hold, port := s.port.drop (foldSteps s.cnt + 1) } := by
  induction hn : s.cnt using Nat.strong_induction_on generalizing s with
  | h n ih =>
    subst hn
    obtain ⟨hr, hrest⟩ := rst_of_take_succ hrst
    by_cases hc : s.cnt = 0
    · have hstep := step_fin hr hp hc
      simp only [State.tick, hc] at hstep
      rw [hc, foldLen_zero, foldSteps_zero, List.drop_one]
      exact .single (P := (· = .folding)) hp hstep
    · have hsteps : foldSteps s.cnt = foldSteps (shiftedCount s) + 1 := by
        rw [foldSteps_of_ne_zero hc, Nat.add_comm]; rfl
      rw [hsteps] at hrest ⊢
      have hrun := ih (shiftedCount s) (shiftRight_eight_lt hc)
        (s := { s.tick with acc := upd s.acc (foldByte s), cnt := shiftedCount s }) hp hrest rfl
      rw [foldLen_succ s.acc hc]
      simp only [tick_port, List.drop_tail] at hrun
      exact .cons hp (step_fold hr hp hc) hrun

/-- Settles O45: the run of the fold, and that its states before the last are in `FOLDING`. -/
theorem foldAlwaysEnds : Obligations.FoldAlwaysEnds := fun _ hp hrst =>
  ⟨(fold_run hp hrst).1, fun k hk => (fold_run hp hrst).2 k (Nat.lt_succ_of_le hk)⟩

/-- A phase between the start of a computation and its end (R119). -/
def Phase.busy (p : Phase) : Prop := p = .consuming ∨ p = .folding ∨ p = .hold

/-- `s` after `INIT`, the bytes of a stream, `EOS` and the core's own steps (R77), with `rest` left on the port. -/
def summed (tag : Byte) (bs : List Byte) (rest : List HostDrive) (s : State) : State :=
  { s with
    acc := cksum bs, cnt := 0, fault := 0#6, primary := 0#3, relSeen := false, tag := tag, phase := .hold,
    port := rest }

/-- `EOS` and the core's own steps, whatever the host drives on them but a reset. -/
theorem fold_run_of_consumed (s : State) (tag : Byte) {bs : List Byte} {held : List HostDrive} (rest : List HostDrive)
    (hlen : held.length = foldSteps bs.length + 1) (hrst : ∀ d ∈ held, d.rst = false) :
    RunIn Phase.busy (held.length + 1)
      (consumed tag bs (HostDrive.present (encode .eos) :: (held ++ rest)) s) (summed tag bs rest s) := by
  have heos : step (consumed tag bs (HostDrive.present (encode .eos) :: (held ++ rest)) s) =
      .next { consumed tag bs (held ++ rest) s with phase := .folding } :=
    step_of_presented (i := .eos) rfl (.inr (.inl rfl)) (legalStream_ok.mpr rfl) rfl
  have hfold := fold_run (s := { consumed tag bs (held ++ rest) s with phase := .folding }) rfl (by
    rw [show (consumed tag bs (held ++ rest) s).cnt = bs.length from rfl, ← hlen,
      show (consumed tag bs (held ++ rest) s).port = held ++ rest from rfl, List.take_left]
    exact hrst)
  simp only [consumed, ← hlen, List.drop_left] at hfold
  exact .cons (.inl rfl) heos (hfold.mono fun _ hp => .inr (.inl hp))

/-- Settles O46: the stream without pauses, `EOS` and the fold. -/
theorem streamEndsInHoldWithCksum : Obligations.StreamEndsInHoldWithCksum := by
  intro s tag bs held rest hs hle hlen hrst hport
  have hstream := countingLaw s tag bs (HostDrive.present (encode .eos) :: (held ++ rest)) hs hle
    (by simp [hport, presentAll, streamCommands])
  have hfold := fold_run_of_consumed s tag rest hlen hrst
  have hedges : bs.length + 2 + (foldSteps bs.length + 1) = bs.length + 1 + (held.length + 1) := by omega
  rw [hedges]
  exact (runFrom_add _ hstream).trans hfold.1

end Sys2Proof.Machine

/-! Whole runs (70_reset_and_hazards.md R119, R122): a faithful host's run ends good, every run that ends good carries
the digest of the bytes accepted in it (44_result_output.md R91), and one that begins with a `FAIL` ends failed. -/

namespace Sys2Proof.Machine

open Sys2Proof.Claims

/-! ### How a run begins -/

section Beginnings

variable {s : State} {i : Instr}

theorem issued?_eq_some : s.issued? = some i ↔ runs s i := by
  unfold State.issued? runs
  cases nextIssue s <;> simp

theorem isInit_iff : isInit i = true ↔ ∃ tag, i = .init tag := by
  cases i <;> simp [isInit]

theorem startsComputation_iff : s.startsComputation = true ↔ starts s := by
  simp only [State.startsComputation, Bool.and_eq_true, Option.any_eq_true, issued?_eq_some, isInit_iff]
  constructor
  · rintro ⟨⟨_, hi, tag, rfl⟩, hs⟩
    exact ⟨tag, hi, hs⟩
  · rintro ⟨tag, hi, hs⟩
    exact ⟨⟨_, hi, tag, rfl⟩, hs⟩

theorem beginsRun_of_run (hi : runs s i) (hc : canBeginRun i = true) (hs : s.phase.startable = true) :
    s.beginsRun = true := by
  simp [State.beginsRun, issued?_eq_some.mpr hi, hc, hs]

/-- A run that does not begin with a starting `INIT` begins with a `FAIL`. -/
theorem fail_of_beginsRun (h : s.beginsRun = true) (hns : s.startsComputation = false) :
    runs s .failSrcUnavail ∨ runs s .failReadFail ∨ runs s .failReleaseFail := by
  simp only [State.beginsRun, Bool.and_eq_true, Option.any_eq_true, issued?_eq_some] at h
  obtain ⟨⟨i, hi, hc⟩, hs⟩ := h
  cases i with
  | init tag => simp [startsComputation_iff.mpr ⟨tag, hi, hs⟩] at hns
  | failSrcUnavail => exact .inl hi
  | failReadFail => exact .inr (.inl hi)
  | failReleaseFail => exact .inr (.inr hi)
  | byte | eos | rel | fold | fin => cases hc

end Beginnings

/-! ### A faithful host's run (R122) -/

section Busy

variable {p : Phase} {s t u : State} {k : Nat} {later : List HostDrive}

theorem not_startsComputation_of_busy (h : s.phase.busy) : s.startsComputation = false := by
  obtain h | h | h := h <;> simp [State.startsComputation, h, Phase.startable]

theorem not_ended_of_busy (h : s.phase.busy) : s.ended later = false := by
  refine ended_of_phase ?_ ?_ <;> obtain h | h | h := h <;> simp [h]

/-- A start, then busy phases with no reset, up to a state in which the run has ended. -/
theorem isRun_of_busy {tag : Byte} (hs : s.phase.startable = true) (hi : runs s (.init tag)) (hstep : step s = .next u)
    (hbusy : RunIn Phase.busy k u t) (hrst : ∀ d ∈ s.port.take (k + 1), d.rst = false)
    (hnext : beginsSource later = true) (hend : t.ended later = true) : IsRun later s (k + 1) t := by
  have hinside : ∀ j v, 0 < j → j < k + 1 → runFrom j s = .next v → v.phase.busy := by
    intro j v h0 hj hv
    obtain ⟨j, rfl⟩ := Nat.exists_eq_succ_of_ne_zero h0.ne'
    obtain ⟨w, hw, hphase⟩ := hbusy.2 j (Nat.lt_of_succ_lt_succ hj)
    rw [Nat.succ_eq_add_one, runFrom_next hstep, hw] at hv
    exact Host.Outcome.next.inj hv ▸ hphase
  exact {
    begins := beginsRun_of_run hi rfl hs
    next := hnext
    one := fun j v hj hv =>
      ⟨drive_rst_of_runFrom hv hj hrst, fun h0 => not_startsComputation_of_busy (hinside j v h0 hj hv)⟩
    leads := ⟨Nat.succ_pos k, (runFrom_next hstep).trans hbusy.1⟩
    ended := hend
    first := fun j v h0 hj hv => not_ended_of_busy (hinside j v h0 hj hv) }

end Busy

theorem rst_of_silent {d : HostDrive} (h : d.silent = true) : d.rst = false := by
  have hdrive : d.rst = false ∧ d.cmdValid = false := by simpa [HostDrive.silent] using h
  exact hdrive.1

/-- Presented commands and pauses hold no reset. -/
theorem rst_of_filter {ds : List HostDrive} {is : List Instr} (h : ds.filter (fun d => !d.silent) = presentAll is) :
    ∀ d ∈ ds, d.rst = false := by
  intro d hd
  cases hq : d.silent with
  | true => exact rst_of_silent hq
  | false =>
    have hmem : d ∈ presentAll is := h ▸ List.mem_filter.mpr ⟨hd, by simp [hq]⟩
    obtain ⟨i, -, rfl⟩ := List.mem_map.mp hmem
    rfl

/-- A state that shows the digest of `bs` as its outcome, with no fault and the tag loaded. -/
def ShowsDigest (tag : Byte) (bs : List Byte) (t : State) : Prop :=
  t.fault = 0#6 ∧ t.tag = tag ∧ resultPort t = cksum bs ∧ digest? t = some (cksum bs) ∧
    decLenPort t = BitVec.ofNat 4 (decStr (cksum bs)).length ∧ decStrPort t = packText (decStr (cksum bs))

/-- After the release report in `HOLD` the sum is on the ports. -/
theorem reportRelease_showsDigest (tag : Byte) (bs : List Byte) (rest : List HostDrive) (s : State) :
    ShowsDigest tag bs (reportRelease (summed tag bs rest s)) :=
  ⟨rfl, rfl, rfl, rfl, rfl, rfl⟩

/-- What a faithful host drives for one computation (R120): `ds` holds the `BYTE`s and their pauses, `held` the edges of
the fold, `pause` those before `REL`. -/
def faithfulDrives (tag : Byte) (ds held pause : List HostDrive) : List HostDrive :=
  HostDrive.present (encode (.init tag)) :: ds ++ HostDrive.present (encode .eos) :: held ++
    (pause ++ [HostDrive.present (encode .rel)])

section Faithful

variable {tag : Byte} {bs : List Byte} {ds held pause : List HostDrive}
  (hds : ds.filter (fun d => !d.silent) = presentAll (bs.map .byte)) (hheld : ∀ d ∈ held, d.rst = false)
  (hpause : ∀ d ∈ pause, d.silent = true)
include hds hheld hpause

theorem rst_of_mem_faithfulDrives : ∀ d ∈ faithfulDrives tag ds held pause, d.rst = false := by
  simp only [faithfulDrives, List.mem_append, List.mem_cons, List.not_mem_nil, or_false]
  rintro d (((rfl | hd) | (rfl | hd)) | (hd | rfl))
  · rfl
  · exact rst_of_filter hds d hd
  · rfl
  · exact hheld d hd
  · exact rst_of_silent (hpause d hd)
  · rfl

/-- From the edge after `INIT` to the one that accepts `REL`: the bytes, the fold, and the pause in `HOLD`. -/
theorem faithful_busy_run (s : State) (later : List HostDrive) (hle : bs.length ≤ 2 ^ s.cfg.cntW - 1)
    (hlen : held.length = foldSteps bs.length + 1) :
    RunIn Phase.busy (ds.length + (held.length + 1) + (pause.length + 1))
      (startComputation tag { s with
        port := ds ++ HostDrive.present (encode .eos) ::
          (held ++ (pause ++ HostDrive.present (encode .rel) :: later)) })
      (reportRelease (summed tag bs later s)) := by
  have hbytes := bytes_run_of_start (s := s) (tag := tag) (rest := HostDrive.present (encode .eos) ::
    (held ++ (pause ++ HostDrive.present (encode .rel) :: later))) hle hds
  have hfold := fold_run_of_consumed s tag (pause ++ HostDrive.present (encode .rel) :: later) hlen hheld
  have hrel := command_run (i := .rel) (s := summed tag bs (pause ++ HostDrive.present (encode .rel) :: later) s) rfl
    (.inr (.inr (.inl rfl))) ((legalRel_ok (r := false)).mpr (.inl rfl)) hpause rfl
  exact ((hbytes.mono fun _ hp => .inl hp).trans hfold).trans (hrel.mono fun _ hp => .inr (.inr hp))

end Faithful

/-- Settles O56: a start, then busy phases until `REL` is accepted. -/
theorem pausingFaithfulRunEndsGood : Obligations.PausingFaithfulRunEndsGood := by
  intro s tag bs ds held pause later hs hle hds hlen hheld hpause hnext hport
  have ha := accepts_of_startable hs
  have hinit : s.port = HostDrive.present (encode (.init tag)) :: (ds ++ HostDrive.present (encode .eos) ::
      (held ++ (pause ++ HostDrive.present (encode .rel) :: later))) := by simp [hport]
  have hwhole : s.port = faithfulDrives tag ds held pause ++ later := by simp [hport, faithfulDrives]
  have hissue : runs s (.init tag) :=
    (nextIssue_of_presented ha hinit).trans (acceptIssue_ok (decode_encode_host rfl))
  have hstep := step_of_presented (i := .init tag) rfl ha (legalInit_ok.mpr (startable_iff.mp hs)) hinit
  have hgood : (reportRelease (summed tag bs later s)).endedGood later = true :=
    endedGood_iff.mpr ⟨rfl, hostDone_append (pause := []) rfl (by simp)⟩
  have hend : (reportRelease (summed tag bs later s)).ended later = true := by simp [State.ended, hgood]
  have hedges : ds.length + held.length + pause.length + 3 =
      ds.length + (held.length + 1) + (pause.length + 1) + 1 := by omega
  have hlength : (faithfulDrives tag ds held pause).length =
      ds.length + (held.length + 1) + (pause.length + 1) + 1 := by
    simp only [faithfulDrives, List.length_append, List.length_cons, List.length_nil]
    omega
  rw [hedges]
  refine ⟨_, isRun_of_busy hs hissue hstep (faithful_busy_run hds hheld hpause s later hle hlen) ?_ hnext hend, hgood,
    reportRelease_showsDigest tag bs later s⟩
  rw [hwhole, List.take_left' hlength]
  exact rst_of_mem_faithfulDrives hds hheld hpause

/-- Settles O47: the schedule without pauses, `REL` held during the fold, and no later source. -/
theorem faithfulRunEndsGood : Obligations.FaithfulRunEndsGood := by
  intro s tag bs hs hle hport
  obtain ⟨t, hrun, hgood⟩ := pausingFaithfulRunEndsGood s tag bs (presentAll (bs.map .byte))
    (List.replicate (foldSteps bs.length + 1) (HostDrive.present (encode .rel))) [] [] hs hle (filter_presentAll _)
    List.length_replicate (fun d hd => by rw [List.eq_of_mem_replicate hd]; rfl) (by simp) rfl
    (by simp [hport, computeDrives, streamCommands, presentAll, List.replicate_succ'])
  have hedges : (presentAll (bs.map .byte)).length +
      (List.replicate (foldSteps bs.length + 1) (HostDrive.present (encode .rel))).length +
      ([] : List HostDrive).length + 3 = bs.length + foldSteps bs.length + 4 := by
    simp; omega
  exact ⟨t, hedges ▸ hrun.leads.2, hgood⟩

/-! ### A run that begins with a `FAIL` -/

theorem raiseFault_fault_ne_zero (c : Cause) (cs : List Cause) (s : State) : (raiseFault c cs s).fault ≠ 0#6 := by
  have hcode : c.code - 1 < 6 := by have := c.code_bounds.2; omega
  have hbit := (causeBits_getLsbD c cs hcode).mpr ⟨c, List.mem_cons_self, rfl⟩
  exact ne_zero_of_getLsbD (k := c.code - 1) (by rw [raiseFault_fault, BitVec.getLsbD_or, hbit, Bool.or_true])

/-- An accepted `FAIL` is a fault entry, which records a cause. -/
theorem commandEffect_fail {i : Instr} (hi : i = .failSrcUnavail ∨ i = .failReadFail ∨ i = .failReleaseFail)
    (s : State) : (commandEffect i s).phase = .failed ∧ (commandEffect i s).fault ≠ 0#6 ∧
      (commandEffect i s).primary ≠ 0#3 ∧ (commandEffect i s).port = s.port := by
  obtain rfl | rfl | rfl := hi <;>
    exact ⟨rfl, raiseFault_fault_ne_zero _ _ _, raiseFault_primary_ne_zero _ _ _, rfl⟩

/-- Settles O58: the one edge is the fault entry, and only its own first state comes before the end. -/
theorem loneFailIsAFailedRun : Obligations.LoneFailIsAFailedRun := by
  intro s i pause later hs hi hpause hnext hport
  have hhost : i.port = .host ∧ canBeginRun i = true ∧ legality s.relSeen i s.phase = .ok := by
    have hlegal := legalFail_ok.mpr (accepts_of_startable hs)
    obtain rfl | rfl | rfl := hi <;> exact ⟨rfl, rfl, hlegal⟩
  obtain ⟨hp, hbegin, hlegal⟩ := hhost
  have hport' : s.port = HostDrive.present (encode i) :: (pause ++ later) := hport
  have hissue : runs s i :=
    (nextIssue_of_presented (accepts_of_startable hs) hport').trans (acceptIssue_ok (decode_encode_host hp))
  have hstep := step_of_presented hp (accepts_of_startable hs) hlegal hport'
  obtain ⟨hphase, hfault, hprimary, hleft⟩ := commandEffect_fail hi { s with port := pause ++ later }
  have hdone := hostDone_append hleft hpause
  refine ⟨_, ?_, endedFailed_iff.mpr ⟨hphase, hdone⟩, hfault, hprimary,
    digest?_of_not_valid (resultValid_false.mpr (by simp [hphase]))⟩
  exact {
    begins := beginsRun_of_run hissue hbegin hs
    next := hnext
    one := by
      intro j u hj hu
      obtain rfl := Nat.lt_one_iff.mp hj
      cases hu
      exact ⟨by rw [drive_of_port hport']; rfl, fun h0 => absurd h0 (Nat.lt_irrefl 0)⟩
    leads := ⟨Nat.one_pos, runFrom_next hstep⟩
    ended := ended_iff.mpr ⟨.inr hphase, hdone⟩
    first := fun j _ h0 hj _ => absurd hj (Nat.not_lt.mpr h0) }

end Sys2Proof.Machine

/-! The digest of a run is that of the bytes accepted in it (44_result_output.md R91): what a computation on these bytes
has reached is kept by every edge of the run. -/

namespace Sys2Proof.Machine

open Sys2Proof.Claims

/-! ### The bytes accepted, edge by edge -/

/-- The byte the coming edge accepts, as a list of at most one. -/
def acceptedNow (s : State) : List Byte := s.issued?.toList.flatMap streamByte

theorem acceptedNow_of_runs {s : State} {i : Instr} (h : runs s i) : acceptedNow s = streamByte i := by
  simp [acceptedNow, issued?_eq_some.mpr h]

theorem acceptedNow_of_quiet {s : State} (h : nextIssue s = .quiet) : acceptedNow s = [] := by
  simp [acceptedNow, State.issued?, h]

theorem acceptedBytes_of_step {k : Nat} {s t : State} (h : step s = .next t) :
    acceptedBytes (k + 1) s = acceptedNow s ++ acceptedBytes k t := by
  simp [acceptedBytes, h, acceptedNow]

/-- An edge of a run after its first: no reset and no second start (R119). -/
def Continues (s : State) : Prop := s.drive.rst = false ∧ s.startsComputation = false

theorem Continues.not_starts {s : State} (h : Continues s) : ¬ starts s := fun hs => by
  simp [startsComputation_iff.mpr hs, Continues] at h

/-- What every continuing edge keeps, of the bytes accepted so far and the state, holds at the end of a run. -/
theorem runFrom_keeps {P : List Byte → State → Prop}
    (hkeep : ∀ bs s t, P bs s → Continues s → step s = .next t → P (bs ++ acceptedNow s) t)
    {k : Nat} {bs : List Byte} {s t : State} (hs : P bs s) (hrun : runFrom k s = .next t)
    (hone : ∀ j u, j < k → runFrom j s = .next u → Continues u) : P (bs ++ acceptedBytes k s) t := by
  induction k generalizing bs s with
  | zero => cases hrun; rwa [acceptedBytes, List.append_nil]
  | succ k ih =>
    obtain ⟨u, hu, hrest⟩ := runFrom_succ_next hrun
    rw [acceptedBytes_of_step hu, ← List.append_assoc]
    exact ih (hkeep bs s u hs (hone 0 s (Nat.succ_pos k) rfl) hu) hrest fun j v hj hv =>
      hone (j + 1) v (Nat.succ_lt_succ hj) ((runFrom_next hu).trans hv)

/-! ### What a computation has reached -/

/-- `s` is on the way to the sum of the bytes `bs`, or has failed. -/
structure Progress (bs : List Byte) (s : State) : Prop where
  consuming : s.phase = .consuming → s.acc = accOf bs ∧ s.cnt = bs.length
  folding : s.phase = .folding → foldLen s.acc s.cnt = foldLen (accOf bs) bs.length
  summed : s.phase = .hold ∨ s.phase = .done → s.acc = cksum bs
  unfailed : s.phase ≠ .failed → s.fault = 0#6 ∧ bs.length ≤ 2 ^ s.cfg.cntW - 1

theorem Progress.of_failed {bs : List Byte} {s : State} (hp : s.phase = .failed) : Progress bs s where
  consuming := by simp [hp]
  folding := by simp [hp]
  summed := by simp [hp]
  unfailed := fun hne => absurd hp hne

theorem startComputation_progress (g : Byte) (s : State) : Progress [] (startComputation g s) where
  consuming := fun _ => ⟨rfl, rfl⟩
  folding := by simp
  summed := by simp
  unfailed := fun _ => ⟨rfl, Nat.zero_le _⟩

section Steps

variable {bs : List Byte} {s : State}

theorem Progress.tick (h : Progress bs s) : Progress bs s.tick := ⟨h.consuming, h.folding, h.summed, h.unfailed⟩

theorem Progress.accumulate (h : Progress bs s) (b : Byte) (hp : s.phase = .consuming) :
    Progress (bs ++ [b]) (accumulate b s) := by
  obtain ⟨hacc, hcnt⟩ := h.consuming hp
  by_cases hfull : 2 ^ s.cfg.cntW - 1 ≤ s.cnt
  · rw [accumulate_of_cnt_full hfull]
    exact .of_failed rfl
  · rw [accumulate_of_cnt_lt (Nat.not_le.mp hfull)]
    exact {
      consuming := fun _ => ⟨by rw [accOf_snoc, hacc], by simp [hcnt]⟩
      folding := by simp [hp]
      summed := by simp [hp]
      unfailed := fun hne => ⟨(h.unfailed hne).1, by simp; omega⟩ }

theorem Progress.eos (h : Progress bs s) (hp : s.phase = .consuming) : Progress bs { s with phase := .folding } where
  consuming := by simp
  folding := by simp [(h.consuming hp).1, (h.consuming hp).2]
  summed := by simp
  unfailed := fun _ => h.unfailed (by simp [hp])

theorem Progress.fold (h : Progress bs s) (hp : s.phase = .folding) (hc : s.cnt ≠ 0) :
    Progress bs { s with acc := upd s.acc (foldByte s), cnt := shiftedCount s } where
  consuming := by simp [hp]
  folding := fun _ => (foldLen_succ s.acc hc).symm.trans (h.folding hp)
  summed := by simp [hp]
  unfailed := h.unfailed

theorem Progress.fin (h : Progress bs s) (hp : s.phase = .folding) (hc : s.cnt = 0) :
    Progress bs { s with acc := ~~~s.acc, phase := .hold } where
  consuming := by simp
  folding := by simp
  summed := fun _ => by
    have hsum := h.folding hp
    rw [hc, foldLen_zero] at hsum
    rw [cksum, ← hsum]
  unfailed := fun _ => h.unfailed (by simp [hp])

theorem Progress.reportRelease (h : Progress bs s) (hp : s.phase = .hold ∨ s.phase = .failed) :
    Progress bs (reportRelease s) := by
  obtain hp | hp := hp
  · exact {
      consuming := by simp [hp]
      folding := by simp [hp]
      summed := fun _ => (reportRelease_acc s).trans (h.summed (.inl hp))
      unfailed := fun _ => by simpa using h.unfailed (by simp [hp]) }
  · exact .of_failed (by simp [hp])

end Steps

/-- Every continuing edge goes on with the computation, by the byte it accepts, or fails. -/
theorem progress_of_step {bs : List Byte} {s t : State} (h : Progress bs s) (hgo : Continues s)
    (hstep : step s = .next t) : Progress (bs ++ acceptedNow s) t := by
  have htick := h.tick
  cases step_effect hstep with
  | reset hr => simp [hgo.1] at hr
  | init g hi hp => exact absurd ⟨g, hi, startable_iff.mpr hp⟩ hgo.not_starts
  | quiet hq => rw [acceptedNow_of_quiet hq, List.append_nil]; exact htick
  | byte b hi hp => rw [acceptedNow_of_runs hi]; exact htick.accumulate b hp
  | eos hi hp => rw [acceptedNow_of_runs hi, streamByte, List.append_nil]; exact htick.eos hp
  | fold hi hp hc => rw [acceptedNow_of_runs hi, streamByte, List.append_nil]; exact htick.fold hp hc
  | fin hi hp hc => rw [acceptedNow_of_runs hi, streamByte, List.append_nil]; exact htick.fin hp hc
  | rel hi hp =>
    rw [acceptedNow_of_runs hi, streamByte, List.append_nil]
    exact htick.reportRelease (hp.imp_right And.left)
  | illegal | failSrcUnavail | failReadFail | failReleaseFail | initOutOfPhase | byteOutOfPhase | eosOutOfPhase
  | relOutOfPhase => exact .of_failed rfl

/-- No continuing edge leaves `FAILED` (60_exceptions.md R101). -/
theorem failed_of_step {s t : State} (hp : s.phase = .failed) (hgo : Continues s) (hstep : step s = .next t) :
    t.phase = .failed := by
  by_contra hne
  obtain ⟨hr, -⟩ | ⟨⟨g, hi⟩, -⟩ := exit_of_failed hp hstep hne
  · simp [hgo.1] at hr
  · exact hgo.not_starts ⟨g, hi, by simp [hp, Phase.startable]⟩

/-! ### The two kinds of run -/

section Runs

variable {later : List HostDrive} {s t : State} {k : Nat}

/-- The first edge of a run, and the edges after it. -/
theorem IsRun.first_edge (h : IsRun later s k t) : ∃ m u, k = m + 1 ∧ step s = .next u ∧ runFrom m u = .next t ∧
    ∀ j v, j < m → runFrom j u = .next v → Continues v := by
  obtain ⟨hpos, hleads⟩ := h.leads
  obtain ⟨m, rfl⟩ := Nat.exists_eq_succ_of_ne_zero hpos.ne'
  obtain ⟨u, hu, hrest⟩ := runFrom_succ_next hleads
  refine ⟨m, u, rfl, hu, hrest, fun j v hj hv => ?_⟩
  obtain ⟨hr, hstart⟩ := h.one (j + 1) v (Nat.succ_lt_succ hj) ((runFrom_next hu).trans hv)
  exact ⟨hr, hstart (Nat.succ_pos j)⟩

theorem progress_of_isRun (h : IsRun later s k t) (hs : s.startsComputation = true) :
    Progress (acceptedBytes k s) t := by
  obtain ⟨m, u, rfl, hu, hrest, hgo⟩ := h.first_edge
  have hstarts := startsComputation_iff.mp hs
  obtain ⟨g, rfl⟩ := step_of_starts hu hstarts
  obtain ⟨tag, hi, -⟩ := hstarts
  rw [acceptedBytes_of_step hu, acceptedNow_of_runs hi]
  exact runFrom_keeps (fun _ _ _ => progress_of_step) (startComputation_progress g s.tick) hrest hgo

theorem failed_of_isRun (h : IsRun later s k t) (hs : s.startsComputation = false) : t.phase = .failed := by
  obtain ⟨m, u, -, hu, hrest, hgo⟩ := h.first_edge
  exact runFrom_keeps (P := fun _ v => v.phase = .failed) (bs := []) (fun _ _ _ => failed_of_step)
    (phase_of_fail hu (fail_of_beginsRun h.begins hs)) hrest hgo

end Runs

/-- Settles O57: a run that starts a computation progresses on the bytes it accepts; one that does not fails at once. -/
theorem runDigestIsOfAcceptedBytes : Obligations.RunDigestIsOfAcceptedBytes := by
  refine fun later s k t hrun => ⟨fun hs hgood => ?_, fun hs => ?_⟩
  · have hp := (endedGood_iff.mp hgood).1
    have hprogress := progress_of_isRun hrun hs
    obtain ⟨hfault, hle⟩ := hprogress.unfailed (by simp [hp])
    rw [(runFrom_port_cfg hrun.leads.2).2] at hle
    exact ⟨(resultPort_of_done hp).trans (hprogress.summed (.inr hp)), hle, hfault⟩
  · exact endedFailed_iff.mpr ⟨failed_of_isRun hrun hs, (ended_iff.mp hrun.ended).2⟩

end Sys2Proof.Machine
